-- ==== Sys2Proof/Word.lean ====
section
/-! DEFINITION. The word types of MITCODEC (00_scope.md R6, R7). Every quantity the spec gives as bits is a
`BitVec` of the width the spec gives it; nothing else is. -/

namespace Sys2Proof

/-- A byte of a frame (00_scope.md R6). -/
abbrev Byte := BitVec 8

/-- A whole frame as one 64-bit vector, `B[0]` in bits 63:56 (00_scope.md R6, decision D8). -/
abbrev Frame := BitVec 64

/-- A binary64 pattern as it crosses a port or stands in a register: sign in bit 63, biased exponent in
bits 62:52, fraction in bits 51:0 (00_scope.md R7; general knowledge G1 of 93_implementation_defined.md). -/
abbrev F64 := BitVec 64

end Sys2Proof
end

