-- ==== Sys2Proof/Config.lean ====
section
/-! DEFINITION. The constants of the block's "configuration surface" (00_scope.md R5; 10_state.md R17, R18;
70_reset_and_hazards.md R152: the same at all times), the parameters the spec leaves OPEN, and the model's
one free value. -/

namespace Sys2Proof

/-- The five channels, in the order of the source's range table (10_state.md R17). -/
inductive Channel where
  | position | velocity | kp | kd | torque
deriving DecidableEq, Repr

/-- One row of the PhysicalRange table (10_state.md R17): the two ends as binary64 patterns, and the width. -/
structure PhysicalRange where
  min : F64
  max : F64
  bits : BitVec 5
deriving DecidableEq, Repr

namespace Config

/-- The PhysicalRange table, row by row (10_state.md R17): position is 16 bits wide, the others 12. -/
def range : Channel → PhysicalRange
  | .position => { min := 0xC029000000000000#64, max := 0x4029000000000000#64, bits := 16#5 }
  | .velocity => { min := 0xC020000000000000#64, max := 0x4020000000000000#64, bits := 12#5 }
  | .kp       => { min := 0x0000000000000000#64, max := 0x407F400000000000#64, bits := 12#5 }
  | .kd       => { min := 0x0000000000000000#64, max := 0x4014000000000000#64, bits := 12#5 }
  | .torque   => { min := 0xC062000000000000#64, max := 0x4062000000000000#64, bits := 12#5 }

/-- `torque_max`, the one constant the reply torque range is built from (41_frame_codec.md R87). It is a
constant of its own, not the table's torque row (10_state.md R18). -/
def torqueMax : F64 := 0x4062000000000000#64

/-- DEVICE_ADDR on ADDR_WIDTH = 11 bits (10_state.md R18; 30_encoding.md R57). -/
def deviceAddr : BitVec 11 := 0x017#11

/-- FRAME_LEN: every frame has exactly 8 data bytes (10_state.md R18). -/
def frameLen : BitVec 4 := 8#4

/-- MIN_REPLY_LEN (10_state.md R18; 41_frame_codec.md R88). -/
def minReplyLen : Nat := 6

/-- X_ENTER (10_state.md R18; 30_encoding.md R53). -/
def xEnter : Byte := 0xFC#8

/-- X_EXIT (10_state.md R18; 30_encoding.md R53). -/
def xExit : Byte := 0xFD#8

/-- X_ZERO (10_state.md R18; 30_encoding.md R53). -/
def xZero : Byte := 0xFE#8

/-- The default `0.0` of a register, positive zero (10_state.md R13, decision D28). -/
def zeroDefault : F64 := 0x0000000000000000#64

/-- The default of `SP.kd`, 0.5 (10_state.md R13). -/
def kdDefault : F64 := 0x3FE0000000000000#64

/-- T_TICK_FLOOR, OPEN (00_scope.md R5; decision D26): least time between two `TX.CMD` of SCHED. No rule of
the block reads it (60_exceptions.md R140). -/
opaque tickFloor : Nat

/-- T_RX_TIMEOUT, OPEN (00_scope.md R5; decision D26): longest wait of one receive of POLL. No rule of the
block reads it. -/
opaque rxTimeout : Nat

/-- T_JOIN, OPEN (00_scope.md R5; decision D26): wait for an agent to stop. No rule of the block reads it. -/
opaque joinTimeout : Nat

/-- FREE VALUE (log entry 8, DESIGN CHOICE): the sign and payload bits of a NaN that an arithmetic primitive
produces from two operands. The spec states none (40_quantizer.md R78) and no operation of the block ever
shows one. -/
opaque nanBits : F64 → F64 → F64

end Config

end Sys2Proof
end

