-- ==== Sys2Proof/Syntax.lean ====
section
/-! DEFINITION. The abstract syntax: the input ports of a request (30_encoding.md R62), the three frame
formats (R45), what an agent can present to the block, and the one inductive of instructions, one constructor
for each row of spec/opcode_table.json with the operands 30_encoding.md R60 gives it. -/

namespace Sys2Proof

/-- The input ports of a request (30_encoding.md R62). -/
structure InPorts where
  /-- `rst`: reset (70_reset_and_hazards.md R150) -/
  rst : Bool := false
  /-- `req_valid`: a request is presented -/
  reqValid : Bool := false
  /-- `req_code = op[3:0] ‖ sel[1:0]` (30_encoding.md R56) -/
  reqCode : BitVec 6 := 0
  idx : BitVec 3 := 0
  fIn : F64 := 0
  fMin : F64 := 0
  fMax : F64 := 0
  bits : BitVec 5 := 0
  rawIn : BitVec 16 := 0
  pIn : F64 := 0
  vIn : F64 := 0
  kpIn : F64 := 0
  kdIn : F64 := 0
  tIn : F64 := 0
  frameIn : Frame := 0
  len : BitVec 4 := 0
  /-- `bus_ok`: the transport's answer for the frame of this operation (42_mode_commands_and_mux.md R103) -/
  busOk : Bool := false
deriving DecidableEq, Repr

/-- The three frame formats (30_encoding.md R45). Which one applies is decided by direction and operation,
never by the bytes (R46), so a frame carries its format beside its 64 bits. -/
inductive FrameFormat where
  | command | reply | control
deriving DecidableEq, Repr

/-- What an agent presents to the block in one turn: its ports, or (POLL) a frame it has received, built by
its sender in the given format (60_exceptions.md R136; log entry 3). -/
inductive Stimulus where
  | request (ports : InPorts)
  | frame (format : FrameFormat) (word : Frame)
deriving DecidableEq, Repr

/-- The agents around the block (60_exceptions.md R133). -/
inductive Agent where
  | host | sched | poll | bus
deriving DecidableEq, Repr

/-- The instructions: thirteen operations and five wire-frame rows. `sel` of an operation other than TX is
kept because it is part of the request code, and is read by no meaning (30_encoding.md R56, R58). -/
inductive Instr where
  /-- `QENC raw, value, min, max, bits` (40_quantizer.md R66) -/
  | qenc (sel : BitVec 2) (value min max : F64) (bits : BitVec 5)
  /-- `QDEC value, raw, min, max, bits` (40_quantizer.md R72) -/
  | qdec (sel : BitVec 2) (raw : BitVec 16) (min max : F64) (bits : BitVec 5)
  /-- `PACK frame, p, v, kp, kd, t` (41_frame_codec.md R81) -/
  | pack (sel : BitVec 2) (p v kp kd t : F64)
  /-- `UNPACK id, p, v, t, frame, len` (41_frame_codec.md R85) -/
  | unpack (sel : BitVec 2) (frame : Frame) (len : BitVec 4)
  /-- `WRSP idx, value` (43_register_and_session_ops.md R111) -/
  | wrsp (sel : BitVec 2) (idx : BitVec 3) (value : F64)
  /-- `RDSP value, idx` (43_register_and_session_ops.md R112) -/
  | rdsp (sel : BitVec 2) (idx : BitVec 3)
  /-- `RDTL value, idx` (43_register_and_session_ops.md R113) -/
  | rdtl (sel : BitVec 2) (idx : BitVec 3)
  /-- `TX.ENTER` (42_mode_commands_and_mux.md R97) -/
  | txEnter (busOk : Bool)
  /-- `TX.EXIT` (42_mode_commands_and_mux.md R98) -/
  | txExit (busOk : Bool)
  /-- `TX.ZERO` (42_mode_commands_and_mux.md R99) -/
  | txZero (busOk : Bool)
  /-- `TX.CMD` (42_mode_commands_and_mux.md R100) -/
  | txCmd (busOk : Bool)
  /-- `RX frame, len` (43_register_and_session_ops.md R114) -/
  | rx (sel : BitVec 2) (frame : Frame) (len : BitVec 4)
  /-- `DISC` (43_register_and_session_ops.md R116) -/
  | disc (sel : BitVec 2)
  /-- the command frame, field by field (30_encoding.md R47) -/
  | frameCmd (pos : BitVec 16) (vel kp kd trq : BitVec 12)
  /-- the reply frame, field by field (30_encoding.md R50); `ignored` is `B[6]`, `B[7]` -/
  | frameReply (id : Byte) (pos : BitVec 16) (vel trq : BitVec 12) (ignored : BitVec 16)
  /-- the enter-mode control frame (30_encoding.md R53) -/
  | frameEnter
  /-- the exit-mode control frame (30_encoding.md R53) -/
  | frameExit
  /-- the zero-position control frame (30_encoding.md R53) -/
  | frameZero
deriving DecidableEq, Repr

end Sys2Proof
end

