-- ==== Sys2Proof/Decode.lean ====
section
/-! DEFINITION. The decoder and the encoder, both from 30_encoding.md: the request code of R56, the command
frame of R47, the reply frame of R50 and the control frame of R52, R53. Decoding is total and rejects by name. -/

namespace Sys2Proof

/-- What decoding a presented word answers. -/
inductive Decoded where
  | instr (i : Instr)
  /-- the request code has `op = 0x0` or `0xB` to `0xF` (30_encoding.md R58) -/
  | reservedRequest (code : BitVec 6)
  /-- given as a control frame, it is none of the three (30_encoding.md R53) -/
  | notControlFrame (word : Frame)
deriving DecidableEq, Repr

/-- `op[3:0]`, the upper four bits of a request code (30_encoding.md R56). -/
def opOf (code : BitVec 6) : BitVec 4 := code.extractLsb' 2 4

/-- `sel[1:0]`, the lower two bits of a request code (30_encoding.md R56). -/
def selOf (code : BitVec 6) : BitVec 2 := code.extractLsb' 0 2

/-- `req_code = op ‖ sel` (30_encoding.md R56). -/
def requestCode (op : BitVec 4) (sel : BitVec 2) : BitVec 6 := op ++ sel

/-- `op = 0x8`: `sel` chooses what goes on the transmit port (30_encoding.md R56). -/
def decodeTx (sel : BitVec 2) (busOk : Bool) : Instr :=
  match sel.toNat with
  | 0 => .txEnter busOk
  | 1 => .txExit busOk
  | 2 => .txZero busOk
  | _ => .txCmd busOk

/-- A request, from its code and the operand ports its operation names (30_encoding.md R56, R62). -/
def decodeRequest (p : InPorts) : Decoded :=
  match (opOf p.reqCode).toNat with
  | 1 => .instr (.qenc (selOf p.reqCode) p.fIn p.fMin p.fMax p.bits)
  | 2 => .instr (.qdec (selOf p.reqCode) p.rawIn p.fMin p.fMax p.bits)
  | 3 => .instr (.pack (selOf p.reqCode) p.pIn p.vIn p.kpIn p.kdIn p.tIn)
  | 4 => .instr (.unpack (selOf p.reqCode) p.frameIn p.len)
  | 5 => .instr (.wrsp (selOf p.reqCode) p.idx p.fIn)
  | 6 => .instr (.rdsp (selOf p.reqCode) p.idx)
  | 7 => .instr (.rdtl (selOf p.reqCode) p.idx)
  | 8 => .instr (decodeTx (selOf p.reqCode) p.busOk)
  | 9 => .instr (.rx (selOf p.reqCode) p.frameIn p.len)
  | 10 => .instr (.disc (selOf p.reqCode))
  | _ => .reservedRequest p.reqCode

/-- The command frame's fields, cut at the bits of 30_encoding.md R47. -/
def decodeCommandFrame (w : Frame) : Instr :=
  .frameCmd (w.extractLsb' 48 16) (w.extractLsb' 36 12) (w.extractLsb' 24 12) (w.extractLsb' 12 12)
    (w.extractLsb' 0 12)

/-- The reply frame's fields, cut at the bits of 30_encoding.md R50. -/
def decodeReplyFrame (w : Frame) : Instr :=
  .frameReply (w.extractLsb' 56 8) (w.extractLsb' 40 16) (w.extractLsb' 28 12) (w.extractLsb' 16 12)
    (w.extractLsb' 0 16)

/-- A control frame: seven `0xFF` bytes and a code byte (30_encoding.md R52). -/
def controlFrame (x : Byte) : Frame := 0xFFFFFFFFFFFFFF#56 ++ x

/-- The three control frames; no other value of X is one (30_encoding.md R53). -/
def decodeControlFrame (w : Frame) : Decoded :=
  if w = controlFrame Config.xEnter then .instr .frameEnter
  else if w = controlFrame Config.xExit then .instr .frameExit
  else if w = controlFrame Config.xZero then .instr .frameZero
  else .notControlFrame w

/-- The decoder, total on everything an agent can present. -/
def decode : Stimulus → Decoded
  | .request p => decodeRequest p
  | .frame .command w => .instr (decodeCommandFrame w)
  | .frame .reply w => .instr (decodeReplyFrame w)
  | .frame .control w => decodeControlFrame w

/-- The ports of a request whose other operands are zero. -/
def requestPorts (code : BitVec 6) : InPorts := { reqValid := true, reqCode := code }

/-- The encoder: the ports of a request (30_encoding.md R56, R62; ports its operation does not name are 0), or
the bits of a frame (R47, R50, R52, R53). -/
def encode : Instr → Stimulus
  | .qenc sel value min max bits =>
      .request { requestPorts (requestCode 1#4 sel) with fIn := value, fMin := min, fMax := max, bits := bits }
  | .qdec sel raw min max bits =>
      .request { requestPorts (requestCode 2#4 sel) with rawIn := raw, fMin := min, fMax := max, bits := bits }
  | .pack sel p v kp kd t =>
      .request { requestPorts (requestCode 3#4 sel) with pIn := p, vIn := v, kpIn := kp, kdIn := kd, tIn := t }
  | .unpack sel frame len =>
      .request { requestPorts (requestCode 4#4 sel) with frameIn := frame, len := len }
  | .wrsp sel idx value =>
      .request { requestPorts (requestCode 5#4 sel) with idx := idx, fIn := value }
  | .rdsp sel idx => .request { requestPorts (requestCode 6#4 sel) with idx := idx }
  | .rdtl sel idx => .request { requestPorts (requestCode 7#4 sel) with idx := idx }
  | .txEnter busOk => .request { requestPorts (requestCode 8#4 0#2) with busOk := busOk }
  | .txExit busOk => .request { requestPorts (requestCode 8#4 1#2) with busOk := busOk }
  | .txZero busOk => .request { requestPorts (requestCode 8#4 2#2) with busOk := busOk }
  | .txCmd busOk => .request { requestPorts (requestCode 8#4 3#2) with busOk := busOk }
  | .rx sel frame len =>
      .request { requestPorts (requestCode 9#4 sel) with frameIn := frame, len := len }
  | .disc sel => .request (requestPorts (requestCode 10#4 sel))
  | .frameCmd pos vel kp kd trq => .frame .command (pos ++ vel ++ kp ++ kd ++ trq)
  | .frameReply id pos vel trq ignored => .frame .reply (id ++ pos ++ vel ++ trq ++ ignored)
  | .frameEnter => .frame .control (controlFrame Config.xEnter)
  | .frameExit => .frame .control (controlFrame Config.xExit)
  | .frameZero => .frame .control (controlFrame Config.xZero)

/-- The format a bare 64-bit table word is read in: the bytes alone do not tell (30_encoding.md R46), so a word
equal to a control frame is taken as one and every other as a command frame (log entry 4). -/
def tableFormat (w : Frame) : FrameFormat :=
  if w = controlFrame Config.xEnter ∨ w = controlFrame Config.xExit ∨ w = controlFrame Config.xZero then
    .control
  else .command

/-- What presenting a word of spec/opcode_table.json means: a 6-bit request code with every operand port zero,
or a 64-bit frame. -/
def tableStimulus (nbits w : Nat) : Option Stimulus :=
  if nbits ≤ 8 then
    if w < 64 then some (.request (requestPorts (BitVec.ofNat 6 w))) else none
  else if nbits = 64 ∧ w < 2 ^ 64 then
    some (.frame (tableFormat (BitVec.ofNat 64 w)) (BitVec.ofNat 64 w))
  else none

/-- The instruction the decoder reads from a word of the opcode table. -/
def decodeTableWord (nbits w : Nat) : Option Instr :=
  match tableStimulus nbits w with
  | none => none
  | some st =>
    match decode st with
    | .instr i => some i
    | .reservedRequest _ => none
    | .notControlFrame _ => none

end Sys2Proof
end

