-- ==== Sys2Proof/Machine/Float.lean ====
section
/-! DEFINITION. The binary64 primitives of 00_scope.md R7 (40_quantizer.md R78): each arithmetic operation is
computed exactly and rounded once, roundTiesToEven, with subnormals and no flush to zero. Every finite
binary64 value is a whole number of units of 2^-1074, the least subnormal, so the exact values are integers
(log entry 17). -/

namespace Sys2Proof.Machine

/-- The sign bit. -/
def fsign (x : F64) : Bool := x.msb

/-- Exponent and fraction fields together, bits 62:0, as a number: the magnitude's place in the order of all
magnitudes. -/
def fmag (x : F64) : Nat := x.toNat % 2 ^ 63

/-- The magnitude field of an infinity. -/
def infMag : Nat := 2047 * 2 ^ 52

/-- `isNaN` (00_scope.md R7). -/
def isNaN (x : F64) : Bool := decide (infMag < fmag x)

/-- Neither an infinity nor a NaN. -/
def isFinite (x : F64) : Bool := decide (fmag x < infMag)

/-- An infinity of either sign. -/
def isInf (x : F64) : Bool := decide (fmag x = infMag)

/-- The pattern with a given sign and magnitude field. -/
def ofMag (neg : Bool) (m : Nat) : F64 := BitVec.ofNat 64 (m + if neg then 2 ^ 63 else 0)

/-- The magnitude of a finite value in units of 2^-1074, from its magnitude field: a subnormal is its
fraction, a normal its significand shifted by its exponent. -/
def units (m : Nat) : Nat :=
  if m / 2 ^ 52 = 0 then m else (2 ^ 52 + m % 2 ^ 52) * 2 ^ (m / 2 ^ 52 - 1)

/-- How many units of 2^-1074 make 1.0. -/
def oneUnits : Nat := 2 ^ 1074

/-- The exact value of a finite pattern in units of 2^-1074; both zeros give 0. -/
def fval (x : F64) : Int := if fsign x then -(units (fmag x) : Int) else (units (fmag x) : Int)

/-- `n / d` rounded to an integer, ties to even. -/
def roundHalfEven (n d : Nat) : Nat :=
  if 2 * (n % d) < d then n / d
  else if d < 2 * (n % d) then n / d + 1
  else n / d + n / d % 2

/-- How far `n / d` units lie above the range in which the spacing of binary64 is one unit. -/
def roundExponent (n d : Nat) : Nat := Nat.log2 (n / d) - 52

/-- roundTiesToEven: the magnitude field of the binary64 value nearest to `n / d` units of 2^-1074. The carry
out of the significand and the step from subnormal to normal fall out of the addition; a result at or above
the overflow bound is an infinity. -/
def roundMag (n d : Nat) : Nat :=
  Nat.min infMag (roundExponent n d * 2 ^ 52 + roundHalfEven n (d * 2 ^ roundExponent n d))

/-- A NaN result: a quiet NaN whose sign and payload are free (log entry 8). -/
def nanOf (a b : F64) : F64 := 0x7FF8000000000000#64 ||| Config.nanBits a b

/-- Negation: the sign bit flipped (41_frame_codec.md R87). -/
def fneg (x : F64) : F64 := x ^^^ 0x8000000000000000#64

/-- `fadd` (00_scope.md R7). An exact zero sum is `+0.0` unless both operands are negative. -/
def fadd (a b : F64) : F64 :=
  if isNaN a || isNaN b then nanOf a b
  else if isInf a then (if isInf b && fsign a != fsign b then nanOf a b else a)
  else if isInf b then b
  else if fval a + fval b = 0 then ofMag (fsign a && fsign b) 0
  else ofMag (decide (fval a + fval b < 0)) (roundMag (fval a + fval b).natAbs 1)

/-- `fsub` (00_scope.md R7). -/
def fsub (a b : F64) : F64 := fadd a (fneg b)

/-- `fmul` (00_scope.md R7). -/
def fmul (a b : F64) : F64 :=
  if isNaN a || isNaN b then nanOf a b
  else if isInf a || isInf b then
    (if fmag a = 0 || fmag b = 0 then nanOf a b else ofMag (fsign a != fsign b) infMag)
  else ofMag (fsign a != fsign b) (roundMag (units (fmag a) * units (fmag b)) oneUnits)

/-- `fdiv` (00_scope.md R7). -/
def fdiv (a b : F64) : F64 :=
  if isNaN a || isNaN b then nanOf a b
  else if isInf a then (if isInf b then nanOf a b else ofMag (fsign a != fsign b) infMag)
  else if isInf b then ofMag (fsign a != fsign b) 0
  else if fmag b = 0 then (if fmag a = 0 then nanOf a b else ofMag (fsign a != fsign b) infMag)
  else ofMag (fsign a != fsign b) (roundMag (units (fmag a) * oneUnits) (units (fmag b)))

/-- The place of a pattern that is no NaN in the order of the values, infinities included; both zeros share
one place. -/
def fkey (x : F64) : Int := if fsign x then -(fmag x : Int) else (fmag x : Int)

/-- `flt`, the quiet comparison `a < b` (00_scope.md R7): false when an operand is a NaN. -/
def flt (a b : F64) : Bool := !isNaN a && !isNaN b && decide (fkey a < fkey b)

/-- `fgt`, the quiet comparison `a > b` (00_scope.md R7). -/
def fgt (a b : F64) : Bool := flt b a

/-- `u2f` (00_scope.md R7): the binary64 value of an unsigned integer, exact below 2^53. -/
def u2f (n : Nat) : F64 := ofMag false (roundMag (n * oneUnits) 1)

/-- `ftrunc` (00_scope.md R7): the largest integer at most a finite `x >= 0`; `ftrunc(-0.0) = 0`. The block
applies it to nothing else (40_quantizer.md R76; log entry 13). -/
def ftrunc (x : F64) : Nat := units (fmag x) / oneUnits

end Sys2Proof.Machine
end

