-- ==== Sys2Proof/Machine/Operands.lean ====
section
/-! DEFINITION. The operand forms: the width operand of the quantizer and its contract (40_quantizer.md R69,
R75, R76), the register index (43_register_and_session_ops.md R117), the reply length (30_encoding.md R59),
the bytes of a frame (00_scope.md R6) and the ranges of the two codecs (10_state.md R17; 41_frame_codec.md R87). -/

namespace Sys2Proof.Machine

/-- `N(bits) = 2^bits - 1` for a supported width; none for the others (00_scope.md R7; 40_quantizer.md R69). -/
def stepsOf (bits : BitVec 5) : Option Nat :=
  match bits.toNat with
  | 12 => some 4095
  | 16 => some 65535
  | _ => none

/-- The contract of the range operands (40_quantizer.md R76): finite ends, `min < max`, and a span whose
product with `N(bits)` is finite. -/
def rangeOk (min max : F64) (n : Nat) : Bool :=
  isFinite min && isFinite max && flt min max && isFinite (fmul (fsub max min) (u2f n))

/-- The contract applies to the supported widths; for the others the result is fixed whatever the other
operands are (40_quantizer.md R69, R75). -/
def inContract (min max : F64) (bits : BitVec 5) : Bool :=
  match stepsOf bits with
  | none => true
  | some n => rangeOk min max n

/-- The number of valid reply bytes: a `len` above 8 is 8 (30_encoding.md R59). -/
def validBytes (len : BitVec 4) : Nat := Nat.min len.toNat 8

/-- Byte `B[i]` of a frame, `frame[63-8i : 56-8i]` (00_scope.md R6). -/
def frameByte (w : Frame) (i : Nat) : Byte := w.extractLsb' (56 - 8 * i) 8

/-- A frame from its eight bytes, `B[0]` first (00_scope.md R6). -/
def frameOf (b0 b1 b2 b3 b4 b5 b6 b7 : Byte) : Frame :=
  b0 ++ b1 ++ b2 ++ b3 ++ b4 ++ b5 ++ b6 ++ b7

/-- The range the reply torque is decoded with: `[-torque_max, +torque_max]` at 12 bits, built from
`torque_max` alone and not from the table's torque row (41_frame_codec.md R87). -/
def replyTorqueRange : PhysicalRange :=
  { min := fneg Config.torqueMax, max := Config.torqueMax, bits := 12#5 }

/-- The setpoint an index names (10_state.md R11); 5 to 7 name nothing (43_register_and_session_ops.md R117). -/
def setpointChannel (idx : BitVec 3) : Option Channel :=
  match idx.toNat with
  | 0 => some .position
  | 1 => some .velocity
  | 2 => some .kp
  | 3 => some .kd
  | 4 => some .torque
  | _ => none

/-- The telemetry channel an index names (10_state.md R12); 3 to 7 name nothing. There is no telemetry
register for kp or kd. -/
def telemetryChannel (idx : BitVec 3) : Option Channel :=
  match idx.toNat with
  | 0 => some .position
  | 1 => some .velocity
  | 2 => some .torque
  | _ => none

end Sys2Proof.Machine
end

