-- ==== Sys2Proof/Machine/State.lean ====
section
/-! DEFINITION. The state of the block (10_state.md R10 to R16), the outputs of its last operation
(30_encoding.md R62), what the agents have still to present (20_memory.md R38), the reasons a step can stop,
and the state after reset (R13; 70_reset_and_hazards.md R150). -/

namespace Sys2Proof.Machine

/-- The setpoint group `SP[0..4]` (10_state.md R11): each register holds what was written, unclamped (R15). -/
structure Setpoints where
  position : F64
  velocity : F64
  kp : F64
  kd : F64
  torque : F64
deriving DecidableEq, Repr

/-- The telemetry group `TL[0..2]` (10_state.md R12). -/
structure Telemetry where
  position : F64
  velocity : F64
  torque : F64
deriving DecidableEq, Repr

/-- The status of an operation (60_exceptions.md R127): three values, the code `0b11` is never produced. -/
inductive Status where
  | ok | decodeTooShort | transportError
deriving DecidableEq, Repr

/-- What a reply frame decodes to (41_frame_codec.md R85). -/
structure Reply where
  id : Byte
  p : F64
  v : F64
  t : F64
deriving DecidableEq, Repr

/-- The output ports (30_encoding.md R62) during the last operation. `none` is "not valid": an operation
drives only the outputs its rule names, and a model gives the others no value (41_frame_codec.md R88).
They are not held by the block (10_state.md R19, R20): every step overwrites them all (log entry 2). -/
structure OutPorts where
  status : Option Status := none
  rawOut : Option (BitVec 16) := none
  fOut : Option F64 := none
  frameOut : Option Frame := none
  idOut : Option Byte := none
  pOut : Option F64 := none
  vOut : Option F64 := none
  tOut : Option F64 := none
  txValid : Bool := false
  txAddr : Option (BitVec 11) := none
  txDlc : Option (BitVec 4) := none
  txData : Option Frame := none
deriving DecidableEq, Repr

/-- The agents' side, the MODEL's own field (log entry 1): what each agent has still to present, in the
order it issues it, and whose turn comes next. All of it is free: the interleaving is an oracle
(20_memory.md R38; decision D10), and so are `bus_ok` and the replies (60_exceptions.md R138). -/
structure Environment where
  host : List Stimulus
  sched : List Stimulus
  poll : List Stimulus
  bus : List Stimulus
  turns : List Agent
deriving DecidableEq, Repr

/-- The whole state. The block's own part is `sp` and `tl`, exactly the two groups of 10_state.md R10. -/
structure State where
  sp : Setpoints
  tl : Telemetry
  out : OutPorts
  env : Environment
deriving DecidableEq, Repr

/-- The block has no fault: no error is fatal (60_exceptions.md R125) and "Nothing in the block is treated as
`fault` or `stuck`" (93_implementation_defined.md). Nothing raises one; that no constructor exists is the
safe side. -/
inductive Fault where
deriving DecidableEq, Repr

/-- Why the model gives a presented word no meaning. Each is asked for by the spec. -/
inductive Refusal where
  /-- raised by an arm of `exec` that has no meaning yet (none is left); safe -/
  | notModelled (mnemonic : String)
  /-- raised by the step for a request code with a reserved `op` (30_encoding.md R58, U7); safe -/
  | reservedRequest (code : BitVec 6)
  /-- raised by the step for a frame given as a control frame with another code byte (30_encoding.md R53); safe -/
  | notControlFrame (word : Frame)
  /-- raised by WRSP and RDSP for an index that names no setpoint (43_register_and_session_ops.md R117, U6); safe -/
  | noSuchSetpoint (idx : BitVec 3)
  /-- raised by RDTL for an index that names no telemetry register (43_register_and_session_ops.md R117, U6); safe -/
  | noSuchTelemetry (idx : BitVec 3)
  /-- raised by QENC and QDEC for range operands outside the contract (40_quantizer.md R76, U2); safe -/
  | rangeOutsideContract
deriving DecidableEq, Repr

/-- The setpoint defaults (10_state.md R13). -/
def Setpoints.defaults : Setpoints :=
  { position := Config.zeroDefault, velocity := Config.zeroDefault, kp := Config.zeroDefault,
    kd := Config.kdDefault, torque := Config.zeroDefault }

/-- The telemetry defaults (10_state.md R13). -/
def Telemetry.defaults : Telemetry :=
  { position := Config.zeroDefault, velocity := Config.zeroDefault, torque := Config.zeroDefault }

/-- No output valid, `tx_valid = 0` (43_register_and_session_ops.md R119; 70_reset_and_hazards.md R150). -/
def OutPorts.quiet : OutPorts := {}

/-- No agent has anything to present (log entry 1). -/
def Environment.empty : Environment := { host := [], sched := [], poll := [], bus := [], turns := [] }

/-- The machine right after reset (10_state.md R13; 70_reset_and_hazards.md R150). -/
def State.reset : State :=
  { sp := Setpoints.defaults, tl := Telemetry.defaults, out := OutPorts.quiet, env := Environment.empty }

end Sys2Proof.Machine
end

