-- ==== Sys2Proof/Machine/Flags.lean ====
section
/-! DEFINITION. The block has no flags (10_state.md R20); what stands in their place is the 2-bit status of the
one operation (60_exceptions.md R127). Every status computation the spec gives is here. -/

namespace Sys2Proof.Machine

/-- The code of a status on the 2-bit port (60_exceptions.md R127); `0b11` is never produced. -/
def Status.code : Status → BitVec 2
  | .ok => 0b00#2
  | .decodeTooShort => 0b01#2
  | .transportError => 0b10#2

/-- The status of a transmission: the transport's answer (42_mode_commands_and_mux.md R103). -/
def txStatus (busOk : Bool) : Status := if busOk then .ok else .transportError

/-- Whether a reply is too short to decode (41_frame_codec.md R88). -/
def tooShort (len : BitVec 4) : Bool := decide (validBytes len < Config.minReplyLen)

end Sys2Proof.Machine
end

