-- ==== Sys2Proof/Machine/Ops.lean ====
section
/-! DEFINITION. The named operations on the state: reading and writing registers (10_state.md R11, R12), ending
an operation with outputs, ending it with an error (60_exceptions.md R128: the block's only "exception"),
emitting a frame (42_mode_commands_and_mux.md R102), publishing telemetry (43_register_and_session_ops.md R114),
reset (70_reset_and_hazards.md R150), and what the agents present next (20_memory.md R38). -/

namespace Sys2Proof.Machine

/-- Read one setpoint register. -/
def Setpoints.get (sp : Setpoints) : Channel → F64
  | .position => sp.position
  | .velocity => sp.velocity
  | .kp => sp.kp
  | .kd => sp.kd
  | .torque => sp.torque

/-- Write one setpoint register, all 64 bits (10_state.md R15; 20_memory.md R36). -/
def Setpoints.set (sp : Setpoints) (c : Channel) (v : F64) : Setpoints :=
  match c with
  | .position => { sp with position := v }
  | .velocity => { sp with velocity := v }
  | .kp => { sp with kp := v }
  | .kd => { sp with kd := v }
  | .torque => { sp with torque := v }

/-- The register a setpoint index names, if it names one (43_register_and_session_ops.md R117). -/
def Setpoints.read (sp : Setpoints) (idx : BitVec 3) : Option F64 :=
  (setpointChannel idx).map sp.get

/-- The setpoint group after a write through an index, if it names a register. -/
def Setpoints.write (sp : Setpoints) (idx : BitVec 3) (v : F64) : Option Setpoints :=
  (setpointChannel idx).map fun c => sp.set c v

/-- The register a telemetry index names, if it names one (10_state.md R12). -/
def Telemetry.read (tl : Telemetry) (idx : BitVec 3) : Option F64 :=
  match telemetryChannel idx with
  | some .position => some tl.position
  | some .velocity => some tl.velocity
  | some .torque => some tl.torque
  | some .kp => none
  | some .kd => none
  | none => none

/-- End an operation with these outputs and no other. -/
def State.respond (s : State) (o : OutPorts) : State := { s with out := o }

/-- Replace the setpoint group. -/
def State.setSetpoints (s : State) (sp : Setpoints) : State := { s with sp := sp }

/-- Replace the telemetry group, all three registers at one instant (20_memory.md R36). -/
def State.setTelemetry (s : State) (tl : Telemetry) : State := { s with tl := tl }

/-- The outputs of an operation that drives its status only. -/
def OutPorts.statusOnly (st : Status) : OutPorts := { status := some st }

/-- `raise E` (60_exceptions.md R128): the operation ends with `status = E`, writes no register, and its data
outputs are not valid. No trap, no saved state, no handler, no return: the block is ready for the next
operation at once (R125). -/
def State.raise (s : State) (e : Status) : State := s.respond (OutPorts.statusOnly e)

/-- The outputs of a transmission: the envelope of every emitted frame and the transport's answer
(42_mode_commands_and_mux.md R102, R103). -/
def OutPorts.transmit (data : Frame) (busOk : Bool) : OutPorts :=
  { status := some (txStatus busOk), txValid := true, txAddr := some Config.deviceAddr,
    txDlc := some Config.frameLen, txData := some data }

/-- Emit one frame (42_mode_commands_and_mux.md R102): it is offered whether or not the transport takes it,
and no register changes (R103). -/
def State.emit (s : State) (data : Frame) (busOk : Bool) : State := s.respond (OutPorts.transmit data busOk)

/-- The outputs of a decoded reply (41_frame_codec.md R85). -/
def OutPorts.decodedReply (r : Reply) : OutPorts :=
  { status := some .ok, idOut := some r.id, pOut := some r.p, vOut := some r.v, tOut := some r.t }

/-- The telemetry a reply carries; its id is not stored (43_register_and_session_ops.md R114). -/
def Reply.telemetry (r : Reply) : Telemetry := { position := r.p, velocity := r.v, torque := r.t }

/-- Every register takes its default, nothing is emitted (70_reset_and_hazards.md R150). The agents' side is
theirs and stays (R152). -/
def State.resetRegisters (s : State) : State :=
  { s with sp := Setpoints.defaults, tl := Telemetry.defaults, out := OutPorts.quiet }

/-- No request: every register keeps its value and no output is valid (43_register_and_session_ops.md R119). -/
def State.idle (s : State) : State := s.respond OutPorts.quiet

/-- What an agent has still to present. -/
def Environment.queue (e : Environment) : Agent → List Stimulus
  | .host => e.host
  | .sched => e.sched
  | .poll => e.poll
  | .bus => e.bus

/-- Replace what an agent has still to present. -/
def Environment.setQueue (e : Environment) (a : Agent) (q : List Stimulus) : Environment :=
  match a with
  | .host => { e with host := q }
  | .sched => { e with sched := q }
  | .poll => { e with poll := q }
  | .bus => { e with bus := q }

/-- What is presented now: the first stimulus of the agent whose turn it is; none when it has none, or when
no turn is left. -/
def Environment.current (e : Environment) : Option Stimulus :=
  match e.turns with
  | [] => none
  | a :: _ => (e.queue a).head?

/-- The turn is over: it and the stimulus it presented are gone, every other stimulus keeps its place. -/
def Environment.advance (e : Environment) : Environment :=
  match e.turns with
  | [] => e
  | a :: rest => { e.setQueue a (e.queue a).tail with turns := rest }

/-- Give an agent the next turn, with this stimulus. -/
def Environment.present (e : Environment) (a : Agent) (st : Stimulus) : Environment :=
  { e.setQueue a (st :: e.queue a) with turns := a :: e.turns }

/-- The agents go on to the next turn. -/
def State.advance (s : State) : State := { s with env := s.env.advance }

/-- What a step has to do with what is presented. -/
inductive Action where
  | idle
  | reset
  | run (i : Instr)
  | reject (r : Refusal)
deriving DecidableEq, Repr

/-- A decoded word runs; a rejected one is refused under the decoder's name for it. -/
def Action.ofDecoded : Decoded → Action
  | .instr i => .run i
  | .reservedRequest code => .reject (.reservedRequest code)
  | .notControlFrame w => .reject (.notControlFrame w)

/-- `rst` resets whatever else is presented (log entry 11); with `req_valid = 0` the block does nothing
(30_encoding.md R62); a request or an arriving frame is decoded. -/
def Action.ofStimulus : Stimulus → Action
  | .request p =>
    if p.rst then .reset
    else if p.reqValid then Action.ofDecoded (decode (.request p))
    else .idle
  | .frame format w => Action.ofDecoded (decode (.frame format w))

/-- What the step has to do in this state; with nothing presented the block is idle. -/
def State.action (s : State) : Action :=
  match s.env.current with
  | none => .idle
  | some st => Action.ofStimulus st

/-- An operation that ends in a next state ends its agent's turn. -/
def advanceOutcome : Host.Outcome State Fault Refusal → Host.Outcome State Fault Refusal
  | .next s => .next s.advance
  | .fault r => .fault r
  | .refused r => .refused r

/-- The agent that presents a stimulus stored by the host's check: POLL a frame it received
(60_exceptions.md R136), HOST a request. -/
def presenterOf : Stimulus → Agent
  | .request _ => .host
  | .frame _ _ => .poll

end Sys2Proof.Machine
end

