-- ==== Sys2Proof/Machine/Quantizer.lean ====
section
/-! DEFINITION. The quantizer, 40_quantizer.md: the two pure functions and the meanings of QENC and QDEC. -/

namespace Sys2Proof.Machine

/-- The clamp, `min` tested first (40_quantizer.md R67, decision D20): silent, nothing records it. -/
def clampTo (v min max : F64) : F64 :=
  if flt v min then min else if fgt v max then max else v

/-- The quotient `c` of 40_quantizer.md R66 for an already clamped value: subtract, multiply, divide, in this
order, each rounded on its own (decision D5). -/
def quotientOf (v min max : F64) (n : Nat) : F64 :=
  fdiv (fmul (fsub v min) (u2f n)) (fsub max min)

/-- `QENC` at a supported width, `n = N(bits)` (40_quantizer.md R66; a NaN gives 0, R70). -/
def quantize (value min max : F64) (n : Nat) : Nat :=
  if isNaN value then 0 else ftrunc (quotientOf (clampTo value min max) min max n)

/-- `QENC(value, min, max, bits)` (40_quantizer.md R66), zero-extended to 16 bits; an unsupported width gives 0
whatever the other operands are (R69). -/
def qencRaw (value min max : F64) (bits : BitVec 5) : BitVec 16 :=
  match stepsOf bits with
  | none => 0
  | some n => BitVec.ofNat 16 (quantize value min max n)

/-- `QDEC` at a supported width: multiply, divide, add (40_quantizer.md R72); `raw` is not checked against the
width (R74). -/
def dequantize (raw : Nat) (min max : F64) (n : Nat) : F64 :=
  fadd (fdiv (fmul (u2f raw) (fsub max min)) (u2f n)) min

/-- `QDEC(raw, min, max, bits)` (40_quantizer.md R72); an unsupported width gives `+0.0` (R75). -/
def qdecValue (raw : BitVec 16) (min max : F64) (bits : BitVec 5) : F64 :=
  match stepsOf bits with
  | none => 0
  | some n => dequantize raw.toNat min max n

/-- The outputs of QENC. -/
def OutPorts.raw (r : BitVec 16) : OutPorts := { status := some .ok, rawOut := some r }

/-- The outputs of an operation whose result is one binary64 value. -/
def OutPorts.value (v : F64) : OutPorts := { status := some .ok, fOut := some v }

/-- QENC (40_quantizer.md R66 to R71): no register read or written, status always OK; range operands outside
the contract are refused (R76, U2; log entry 7). -/
def execQenc (_sel : BitVec 2) (value min max : F64) (bits : BitVec 5) (s : State) :
    Host.Outcome State Fault Refusal :=
  if inContract min max bits then .next (s.respond (OutPorts.raw (qencRaw value min max bits)))
  else .refused .rangeOutsideContract

/-- QDEC (40_quantizer.md R72 to R75): no register read or written, status always OK; range operands outside
the contract are refused (R76, U2; log entry 7). -/
def execQdec (_sel : BitVec 2) (raw : BitVec 16) (min max : F64) (bits : BitVec 5) (s : State) :
    Host.Outcome State Fault Refusal :=
  if inContract min max bits then .next (s.respond (OutPorts.value (qdecValue raw min max bits)))
  else .refused .rangeOutsideContract

end Sys2Proof.Machine
end

