-- ==== Sys2Proof/Machine/FrameCodec.lean ====
section
/-! DEFINITION. The frame codec, 41_frame_codec.md: packing five values into a command frame by the byte
equations of 30_encoding.md R48, extracting a reply by the equations of R51, and the meanings of PACK and
UNPACK. -/

namespace Sys2Proof.Machine

/-- A channel's raw code, on the 16-bit raw port (41_frame_codec.md R81; the table's row, 10_state.md R17). -/
def encodeChannel (c : Channel) (v : F64) : BitVec 16 :=
  qencRaw v (Config.range c).min (Config.range c).max (Config.range c).bits

/-- A 12-bit channel's field: bits 15:12 of its raw code are zero (40_quantizer.md R77). -/
def encodeField (c : Channel) (v : F64) : BitVec 12 := (encodeChannel c v).setWidth 12

/-- A byte of two nibbles, `(hi << 4) | lo` (30_encoding.md R48). -/
def nibbles (hi lo : BitVec 4) : Byte := (hi.setWidth 8 <<< 4) ||| lo.setWidth 8

/-- The command frame of five raw fields, byte by byte (30_encoding.md R48). -/
def packRaws (pos : BitVec 16) (vel kp kd trq : BitVec 12) : Frame :=
  frameOf (pos.extractLsb' 8 8) (pos.extractLsb' 0 8) (vel.extractLsb' 4 8)
    (nibbles (vel.extractLsb' 0 4) (kp.extractLsb' 8 4)) (kp.extractLsb' 0 8) (kd.extractLsb' 4 8)
    (nibbles (kd.extractLsb' 0 4) (trq.extractLsb' 8 4)) (trq.extractLsb' 0 8)

/-- `PACK(p, v, kp, kd, t)` (41_frame_codec.md R81). The clamp of R80 is the quantizer's (R82). -/
def packFrame (p v kp kd t : F64) : Frame :=
  packRaws (encodeChannel .position p) (encodeField .velocity v) (encodeField .kp kp) (encodeField .kd kd)
    (encodeField .torque t)

/-- `position_raw = byte1<<8 | byte2` (30_encoding.md R51). -/
def positionRaw (w : Frame) : BitVec 16 :=
  ((frameByte w 1).setWidth 16 <<< 8) ||| (frameByte w 2).setWidth 16

/-- `velocity_raw = byte3<<4 | byte4>>4` (30_encoding.md R51), each byte widened before it is shifted. -/
def velocityRaw (w : Frame) : BitVec 12 :=
  ((frameByte w 3).setWidth 12 <<< 4) ||| ((frameByte w 4).setWidth 12 >>> 4)

/-- `torque_raw = (byte4 & 0xF)<<8 | byte5` (30_encoding.md R51). -/
def torqueRaw (w : Frame) : BitVec 12 :=
  (((frameByte w 4).setWidth 12 &&& 0xF#12) <<< 8) ||| (frameByte w 5).setWidth 12

/-- A raw code decoded with a range (41_frame_codec.md R86, R87). -/
def decodeWith (r : PhysicalRange) (raw : BitVec 16) : F64 := qdecValue raw r.min r.max r.bits

/-- What a reply frame decodes to, bytes 0 to 5 only (41_frame_codec.md R85): position and velocity with the
table's rows (R86), torque with the symmetric range (R87). The id is extracted and compared with nothing (R89). -/
def replyOf (w : Frame) : Reply :=
  { id := frameByte w 0
    p := decodeWith (Config.range .position) (positionRaw w)
    v := decodeWith (Config.range .velocity) ((velocityRaw w).setWidth 16)
    t := decodeWith replyTorqueRange ((torqueRaw w).setWidth 16) }

/-- `UNPACK(frame, len)` (41_frame_codec.md R85): none is `DecodeTooShort` (R88). -/
def unpackFrame (w : Frame) (len : BitVec 4) : Option Reply :=
  if tooShort len then none else some (replyOf w)

/-- The outputs of PACK; `tx_valid` stays 0 (41_frame_codec.md R80). -/
def OutPorts.frame (w : Frame) : OutPorts := { status := some .ok, frameOut := some w }

/-- PACK (41_frame_codec.md R80 to R83): no register read or written, status always OK. -/
def execPack (_sel : BitVec 2) (p v kp kd t : F64) (s : State) : Host.Outcome State Fault Refusal :=
  .next (s.respond (OutPorts.frame (packFrame p v kp kd t)))

/-- UNPACK without touching registers: the reply's values, or `DecodeTooShort` (41_frame_codec.md R85, R88). -/
def State.decodeReply (s : State) (w : Frame) (len : BitVec 4) : State :=
  match unpackFrame w len with
  | none => s.raise .decodeTooShort
  | some r => s.respond (OutPorts.decodedReply r)

/-- UNPACK (41_frame_codec.md R84 to R90). -/
def execUnpack (_sel : BitVec 2) (frame : Frame) (len : BitVec 4) (s : State) :
    Host.Outcome State Fault Refusal :=
  .next (s.decodeReply frame len)

end Sys2Proof.Machine
end

