-- ==== Sys2Proof/Machine/Registers.lean ====
section
/-! DEFINITION. Register access, 43_register_and_session_ops.md: the meanings of WRSP, RDSP and RDTL. -/

namespace Sys2Proof.Machine

/-- WRSP (43_register_and_session_ops.md R111): the value is stored bit for bit, unclamped; nothing is sent. An
index that names nothing is refused (R117). -/
def execWrsp (_sel : BitVec 2) (idx : BitVec 3) (value : F64) (s : State) : Host.Outcome State Fault Refusal :=
  match s.sp.write idx value with
  | none => .refused (.noSuchSetpoint idx)
  | some sp => .next ((s.setSetpoints sp).respond (OutPorts.statusOnly .ok))

/-- RDSP (43_register_and_session_ops.md R112): the bits last written, or the reset value. -/
def execRdsp (_sel : BitVec 2) (idx : BitVec 3) (s : State) : Host.Outcome State Fault Refusal :=
  match s.sp.read idx with
  | none => .refused (.noSuchSetpoint idx)
  | some v => .next (s.respond (OutPorts.value v))

/-- RDTL (43_register_and_session_ops.md R113): the value last published, with no age and no valid bit. -/
def execRdtl (_sel : BitVec 2) (idx : BitVec 3) (s : State) : Host.Outcome State Fault Refusal :=
  match s.tl.read idx with
  | none => .refused (.noSuchTelemetry idx)
  | some v => .next (s.respond (OutPorts.value v))

end Sys2Proof.Machine
end

