-- ==== Sys2Proof/Machine/Transmit.lean ====
section
/-! DEFINITION. Mode commands and the control-frame mux, 42_mode_commands_and_mux.md: the meanings of TX.ENTER,
TX.EXIT, TX.ZERO and TX.CMD. The mux is gated by no mode and no connection (R105). -/

namespace Sys2Proof.Machine

/-- `ModeFrame(c) = 0xFFFFFFFFFFFFFF ‖ (0xFC | c)` (42_mode_commands_and_mux.md R96); formed for c = 0, 1, 2. -/
def modeFrame (c : BitVec 2) : Frame := 0xFFFFFFFFFFFFFF#56 ++ (0xFC#8 ||| c.setWidth 8)

/-- The command frame of the setpoint group, read at one instant (42_mode_commands_and_mux.md R100). -/
def commandFrame (sp : Setpoints) : Frame := packFrame sp.position sp.velocity sp.kp sp.kd sp.torque

/-- `TxFrame(sel, SP)` (42_mode_commands_and_mux.md R101): the whole of the mux's data path. -/
def txFrame (sel : BitVec 2) (sp : Setpoints) : Frame :=
  match sel.toNat with
  | 0 => modeFrame 0#2
  | 1 => modeFrame 1#2
  | 2 => modeFrame 2#2
  | _ => commandFrame sp

/-- A TX operation: emit the selected frame with the transport's answer (42_mode_commands_and_mux.md R102, R103). -/
def State.transmit (s : State) (sel : BitVec 2) (busOk : Bool) : State := s.emit (txFrame sel s.sp) busOk

/-- TX.ENTER (42_mode_commands_and_mux.md R97). -/
def execTxEnter (busOk : Bool) (s : State) : Host.Outcome State Fault Refusal := .next (s.transmit 0#2 busOk)

/-- TX.EXIT (42_mode_commands_and_mux.md R98). -/
def execTxExit (busOk : Bool) (s : State) : Host.Outcome State Fault Refusal := .next (s.transmit 1#2 busOk)

/-- TX.ZERO (42_mode_commands_and_mux.md R99). -/
def execTxZero (busOk : Bool) (s : State) : Host.Outcome State Fault Refusal := .next (s.transmit 2#2 busOk)

/-- TX.CMD (42_mode_commands_and_mux.md R100): one scheduler tick; the setpoints are not consumed. -/
def execTxCmd (busOk : Bool) (s : State) : Host.Outcome State Fault Refusal := .next (s.transmit 3#2 busOk)

end Sys2Proof.Machine
end

