-- ==== Sys2Proof/Machine/Session.lean ====
section
/-! DEFINITION. The session operations, 43_register_and_session_ops.md: receiving a reply and disconnecting. -/

namespace Sys2Proof.Machine

/-- `RX(frame, len)` (43_register_and_session_ops.md R114): decode, and publish all three values at one instant;
on `DecodeTooShort` telemetry is left unchanged (R115). -/
def State.receive (s : State) (w : Frame) (len : BitVec 4) : State :=
  match unpackFrame w len with
  | none => s.raise .decodeTooShort
  | some r => (s.setTelemetry r.telemetry).respond (OutPorts.decodedReply r)

/-- RX (43_register_and_session_ops.md R114). -/
def execRx (_sel : BitVec 2) (frame : Frame) (len : BitVec 4) (s : State) :
    Host.Outcome State Fault Refusal :=
  .next (s.receive frame len)

/-- DISC (43_register_and_session_ops.md R116): telemetry takes its defaults, setpoints persist, no frame is
emitted. -/
def execDisc (_sel : BitVec 2) (s : State) : Host.Outcome State Fault Refusal :=
  .next ((s.setTelemetry Telemetry.defaults).respond (OutPorts.statusOnly .ok))

end Sys2Proof.Machine
end

