-- ==== Sys2Proof/Machine/WireFrames.lean ====
section
/-! DEFINITION. The wire-frame rows of the opcode table (30_encoding.md R47, R50, R52). Executing such a row is one
pass of POLL's loop body: POLL has received that frame, all 8 bytes of it, and issues its RX with it
(60_exceptions.md R136; log entry 3). Every inbound frame is decoded as a reply, whatever its bytes (R46, R58), also an echo of the block's own command or control frame
(70_reset_and_hazards.md R163). What a control or command frame makes the actuator do is outside the block. -/

namespace Sys2Proof.Machine

/-- The bits of an instruction that is a frame; an operation carries none. -/
def frameBits (i : Instr) : Frame :=
  match encode i with
  | .request _ => 0
  | .frame _ w => w

/-- POLL's RX of a frame received with its 8 bytes (60_exceptions.md R136: one RX per frame, with the bytes and
the length as delivered). -/
def State.arrive (s : State) (i : Instr) : State := s.receive (frameBits i) Config.frameLen

/-- FRAME.CMD: a command frame arrives and is read as a reply (41_frame_codec.md R91). -/
def execFrameCmd (pos : BitVec 16) (vel kp kd trq : BitVec 12) (s : State) :
    Host.Outcome State Fault Refusal :=
  .next (s.arrive (.frameCmd pos vel kp kd trq))

/-- FRAME.REPLY: a reply frame arrives (43_register_and_session_ops.md R114). -/
def execFrameReply (id : Byte) (pos : BitVec 16) (vel trq : BitVec 12) (ignored : BitVec 16) (s : State) :
    Host.Outcome State Fault Refusal :=
  .next (s.arrive (.frameReply id pos vel trq ignored))

/-- FRAME.ENTER: the enter frame arrives and is read as a reply (30_encoding.md R58). -/
def execFrameEnter (s : State) : Host.Outcome State Fault Refusal := .next (s.arrive .frameEnter)

/-- FRAME.EXIT: the exit frame arrives and is read as a reply (30_encoding.md R58). -/
def execFrameExit (s : State) : Host.Outcome State Fault Refusal := .next (s.arrive .frameExit)

/-- FRAME.ZERO: the zero frame arrives and is read as a reply (30_encoding.md R58). -/
def execFrameZero (s : State) : Host.Outcome State Fault Refusal := .next (s.arrive .frameZero)

end Sys2Proof.Machine
end

