-- ==== Sys2Proof/Machine/Dispatch.lean ====
section
/-! DEFINITION. One arm per instruction, each one direct call of its meaning. -/

namespace Sys2Proof.Machine

def exec (i : Instr) (s : State) : Host.Outcome State Fault Refusal :=
  match i with
  | .qenc sel value min max bits => Sys2Proof.Machine.execQenc sel value min max bits s
  | .qdec sel raw min max bits => Sys2Proof.Machine.execQdec sel raw min max bits s
  | .pack sel p v kp kd t => Sys2Proof.Machine.execPack sel p v kp kd t s
  | .unpack sel frame len => Sys2Proof.Machine.execUnpack sel frame len s
  | .wrsp sel idx value => Sys2Proof.Machine.execWrsp sel idx value s
  | .rdsp sel idx => Sys2Proof.Machine.execRdsp sel idx s
  | .rdtl sel idx => Sys2Proof.Machine.execRdtl sel idx s
  | .txEnter busOk => Sys2Proof.Machine.execTxEnter busOk s
  | .txExit busOk => Sys2Proof.Machine.execTxExit busOk s
  | .txZero busOk => Sys2Proof.Machine.execTxZero busOk s
  | .txCmd busOk => Sys2Proof.Machine.execTxCmd busOk s
  | .rx sel frame len => Sys2Proof.Machine.execRx sel frame len s
  | .disc sel => Sys2Proof.Machine.execDisc sel s
  | .frameCmd pos vel kp kd trq => Sys2Proof.Machine.execFrameCmd pos vel kp kd trq s
  | .frameReply id pos vel trq ignored => Sys2Proof.Machine.execFrameReply id pos vel trq ignored s
  | .frameEnter => Sys2Proof.Machine.execFrameEnter s
  | .frameExit => Sys2Proof.Machine.execFrameExit s
  | .frameZero => Sys2Proof.Machine.execFrameZero s

end Sys2Proof.Machine
end

