-- ==== Sys2Proof/Machine/Step.lean ====
section
/-! DEFINITION. One step: the agent whose turn it is presents one stimulus, the block executes it as one atomic
operation (20_memory.md R36, R38), and the turn is over. -/

namespace Sys2Proof.Machine

/-- One step of the block. -/
def step (s : State) : Host.Outcome State Fault Refusal :=
  match s.action with
  | .idle => .next s.idle.advance
  | .reset => .next s.resetRegisters.advance
  | .run i => advanceOutcome (exec i s)
  | .reject r => .refused r

/-- The word is presented next: HOST's next request, or the frame POLL receives next; whatever waited keeps its
place behind it (log entry 5). -/
def State.withFetchWord (s : State) (nbits w : Nat) : State :=
  match tableStimulus nbits w with
  | none => s
  | some st => { s with env := s.env.present (presenterOf st) st }

end Sys2Proof.Machine
end

