-- ==== Sys2Proof/WellFormed.lean ====
section
/-! DEFINITION. Which instructions are inside the block's contract with its agents (decision D22; 40_quantizer.md
R76; 43_register_and_session_ops.md R117). Every field of an instruction has its exact width by its type, so
what is left to check is that an index names a register and that range operands keep the contract. -/

namespace Sys2Proof

/-- The check, one line for each constructor. -/
def WellFormed : Instr → Bool
  | .qenc _ _ min max bits => Machine.inContract min max bits
  | .qdec _ _ min max bits => Machine.inContract min max bits
  | .pack _ _ _ _ _ _ => true
  | .unpack _ _ _ => true
  | .wrsp _ idx _ => (Machine.setpointChannel idx).isSome
  | .rdsp _ idx => (Machine.setpointChannel idx).isSome
  | .rdtl _ idx => (Machine.telemetryChannel idx).isSome
  | .txEnter _ => true
  | .txExit _ => true
  | .txZero _ => true
  | .txCmd _ => true
  | .rx _ _ _ => true
  | .disc _ => true
  | .frameCmd _ _ _ _ _ => true
  | .frameReply _ _ _ _ _ => true
  | .frameEnter => true
  | .frameExit => true
  | .frameZero => true

end Sys2Proof
end

