-- ==== Sys2Proof/Safety.lean ====
section
/-! DEFINITION. The terms in which claims about runs are stated: the ranges telemetry stays in (10_state.md R15),
the form of the output ports (42_mode_commands_and_mux.md R102; 60_exceptions.md R127 to R129), and the duties
of the agents (10_state.md R24; 60_exceptions.md R133 to R136). The block itself checks none of the duties. -/

namespace Sys2Proof.Machine

/-- A finite value within a range, ends included (41_frame_codec.md R86). -/
def inRange (r : PhysicalRange) (x : F64) : Bool := isFinite x && !flt x r.min && !fgt x r.max

/-- Every telemetry register is finite and in its channel's range (10_state.md R15; 41_frame_codec.md R86). -/
def telemetryOk (tl : Telemetry) : Bool :=
  inRange (Config.range .position) tl.position && inRange (Config.range .velocity) tl.velocity
    && inRange replyTorqueRange tl.torque

/-- A transmission's ports are the envelope of 42_mode_commands_and_mux.md R102, and outside a transmission they
are not valid; `TransportError` comes with a transmission only, and `DecodeTooShort` with no data output
(60_exceptions.md R126, R128). -/
def outputsOk (o : OutPorts) : Bool :=
  (if o.txValid then
    o.txAddr == some 0x017#11 && o.txDlc == some 8#4 && o.txData.isSome
      && (o.status == some .ok || o.status == some .transportError)
   else o.txAddr == none && o.txDlc == none && o.txData == none && o.status != some .transportError)
  && (o.status != some .decodeTooShort || decide (o = OutPorts.statusOnly .decodeTooShort))

/-- Which operations an agent issues (60_exceptions.md R133): BUS none. The RX of a frame that was received is
POLL's (R136; log entry 3). -/
def mayIssue : Agent → Instr → Bool
  | .host, .qenc .. | .host, .qdec .. | .host, .pack .. | .host, .unpack .. => true
  | .host, .wrsp .. | .host, .rdsp .. | .host, .rdtl .. => true
  | .host, .txEnter .. | .host, .txExit .. | .host, .txZero .. | .host, .disc .. => true
  | .sched, .txCmd .. => true
  | .poll, .rx .. => true
  | .poll, .frameCmd .. | .poll, .frameReply .. | .poll, .frameEnter | .poll, .frameExit | .poll, .frameZero => true
  | _, _ => false

/-- A stimulus an agent may present under its duties: HOST alone resets (60_exceptions.md R134). -/
def mayPresent (a : Agent) (st : Stimulus) : Bool :=
  match Action.ofStimulus st with
  | .idle => true
  | .reset => decide (a = .host)
  | .run i => mayIssue a i
  | .reject _ => false

/-- Every agent keeps to its duties in all it has still to present (60_exceptions.md R134 to R136). -/
def disciplined (e : Environment) : Bool :=
  e.host.all (mayPresent .host) && e.sched.all (mayPresent .sched) && e.poll.all (mayPresent .poll)
    && e.bus.all (mayPresent .bus)

/-- `N(bits)` of a supported width (00_scope.md R7): 4095 for 12, 65535 for 16. -/
def supportedWidth (bits : BitVec 5) (n : Nat) : Prop := (bits = 12#5 ∧ n = 4095) ∨ (bits = 16#5 ∧ n = 65535)

/-- The contract of the range operands, written out (40_quantizer.md R76); it asks nothing of an unsupported
width (R69, R75). -/
def rangeContract (min max : F64) (bits : BitVec 5) : Prop :=
  ∀ n : Nat, supportedWidth bits n →
    isFinite min = true ∧ isFinite max = true ∧ flt min max = true ∧
      isFinite (fmul (fsub max min) (u2f n)) = true

/-- roundTiesToEven for a finite result (00_scope.md R7): by this distance from the exact result no finite value
is nearer than `r`, and where one of another magnitude is as near, `r` has an even significand. -/
def nearestEven (dist : F64 → Nat) (r : F64) : Prop :=
  ∀ c : F64, isFinite c = true → dist r ≤ dist c ∧ (dist c = dist r → fmag c ≠ fmag r → fmag r % 2 = 0)

/-- `x >= t` as values, false for a NaN (00_scope.md R7; 70_reset_and_hazards.md R156). -/
def atLeast (x t : F64) : Prop := isNaN x = false ∧ fkey t ≤ fkey x

/-- `x <= t` as values, false for a NaN. -/
def atMost (x t : F64) : Prop := isNaN x = false ∧ fkey x ≤ fkey t

/-- What is presented now is this stimulus, and it is an operation: an arriving frame, or ports with
`req_valid = 1` and no reset (30_encoding.md R62). -/
def presents (s : State) (st : Stimulus) : Prop :=
  s.env.current = some st ∧ ∀ p, st = .request p → p.reqValid = true ∧ p.rst = false

/-- The operations that change a setpoint register (10_state.md R11). -/
def writesSetpoints : Instr → Bool
  | .wrsp .. => true
  | _ => false

/-- The operations that change telemetry: RX, DISC (10_state.md R12) and the arrival of a frame. -/
def writesTelemetry : Instr → Bool
  | .rx .. | .disc .. => true
  | .frameCmd .. | .frameReply .. | .frameEnter | .frameExit | .frameZero => true
  | _ => false

/-- The operations that put a frame on the transmit port (42_mode_commands_and_mux.md R102). -/
def transmits : Instr → Bool
  | .txEnter .. | .txExit .. | .txZero .. | .txCmd .. => true
  | _ => false

end Sys2Proof.Machine
end

