-- ==== Sys2Proof/Certificates/Slice0/Obligations.lean ====
section
/-! DEFINITION. The statements for the provers. Each is one `Obligations.<Name> : Prop`; results are written as the
whole next state, so that what an operation leaves unchanged is part of the statement. -/

open Sys2Proof Sys2Proof.Machine

/-! ### Encoding -/

/-- Decoding an encoded instruction gives it back, every operand at every value (30_encoding.md R47, R50, R52,
R56, R62). -/
def Obligations.DecodeEncodeRoundTrip : Prop :=
  ∀ i : Instr, decode (encode i) = .instr i

/-- No bit of a frame is dropped by its decoding: encoding what a frame decodes to gives the frame back
(30_encoding.md R47: "There is no spare bit"; R50, R52). -/
def Obligations.EncodeDecodeFrames : Prop :=
  ∀ (fmt : FrameFormat) (w : Frame) (i : Instr),
    decode (.frame fmt w) = .instr i → encode i = .frame fmt w

/-- The request codes that are no operation are 0x00 to 0x03 and 0x2C to 0x3F, and no others
(30_encoding.md R56, R58). -/
def Obligations.ReservedRequestCodes : Prop :=
  ∀ p : InPorts,
    (decode (.request p) = .reservedRequest p.reqCode ↔ (p.reqCode.toNat < 4 ∨ 44 ≤ p.reqCode.toNat)) ∧
    ((∃ i, decode (.request p) = .instr i) ↔ (4 ≤ p.reqCode.toNat ∧ p.reqCode.toNat < 44))

/-- A pattern given as a control frame is one exactly when it is one of the three (30_encoding.md R52, R53). -/
def Obligations.OnlyThreeControlFrames : Prop :=
  ∀ w : Frame,
    (∃ i, decode (.frame .control w) = .instr i) ↔
      (w = 0xFFFFFFFFFFFFFFFC#64 ∨ w = 0xFFFFFFFFFFFFFFFD#64 ∨ w = 0xFFFFFFFFFFFFFFFE#64)

/-- Words written out from the request-code table (30_encoding.md R56) and the frame formats (R47, R53) decode
to the instruction they stand for. That a bare 64-bit word which is no control frame is read as a command
frame is the model's choice (log entry 4). -/
def Obligations.OpcodeWordsDecode : Prop :=
  decodeTableWord 8 0b000101 = some (.qenc 1#2 0 0 0 0) ∧
  decodeTableWord 8 0b001100 = some (.pack 0#2 0 0 0 0 0) ∧
  decodeTableWord 8 0b010110 = some (.wrsp 2#2 0 0) ∧
  decodeTableWord 8 0b100000 = some (.txEnter false) ∧
  decodeTableWord 8 0b100011 = some (.txCmd false) ∧
  decodeTableWord 8 0b100111 = some (.rx 3#2 0 0) ∧
  decodeTableWord 8 0b101000 = some (.disc 0#2) ∧
  decodeTableWord 8 0b101100 = none ∧
  decodeTableWord 64 0xFFFFFFFFFFFFFFFD = some .frameExit ∧
  decodeTableWord 64 0xB3329FF33366688D =
    some (.frameCmd 0xB332#16 0x9FF#12 0x333#12 0x666#12 0x88D#12)

/-- `sel` is ignored when `op` is not 8 (30_encoding.md R56): two requests that differ only in `sel` have the
same step. -/
def Obligations.SelIgnoredOutsideTx : Prop :=
  ∀ (s : State) (a : Agent) (p : InPorts) (sel : BitVec 2),
    opOf p.reqCode ≠ 8#4 → 1 ≤ (opOf p.reqCode).toNat → (opOf p.reqCode).toNat ≤ 10 →
      step { s with env := s.env.present a (.request p) } =
        step { s with env := s.env.present a (.request { p with reqCode := opOf p.reqCode ++ sel }) }

/-! ### The step -/

/-- A step runs the decoded instruction: what is presented decodes to `i`, and the step is `exec i`, after which
the agents go on to the next turn. That an operation is one atomic step of a total order is 20_memory.md R36 and
R38; the queues and the turns that advance are the model's (log entry 1). -/
def Obligations.StepRunsDecodedInstruction : Prop :=
  ∀ (s : State) (st : Stimulus) (i : Instr),
    presents s st → decode st = .instr i →
      (∀ t, exec i s = .next t → step s = .next { t with env := t.env.advance }) ∧
      (∀ r, exec i s = .fault r → step s = .fault r) ∧
      (∀ r, exec i s = .refused r → step s = .refused r)

/-- A word stored where the step takes its next stimulus is the word the very next step runs. That HOST presents
a request and POLL a received frame is the model's choice (log entry 5). -/
def Obligations.FetchWordRunsNext : Prop :=
  ∀ (s : State) (nbits w : Nat) (i : Instr),
    decodeTableWord nbits w = some i →
      ((∀ t, exec i (s.withFetchWord nbits w) = .next t →
          step (s.withFetchWord nbits w) = .next { t with env := s.env }) ∧
        (∀ r, exec i (s.withFetchWord nbits w) = .refused r → step (s.withFetchWord nbits w) = .refused r)) ∧
      (s.withFetchWord nbits w).sp = s.sp ∧ (s.withFetchWord nbits w).tl = s.tl ∧
      (s.withFetchWord nbits w).out = s.out

/-- Operations of one agent take effect in the order it issues them, and one step takes at most one
(20_memory.md R38): the agent whose turn it is loses the head of its queue, every other queue is as before.
The queues themselves are the model's (log entry 1). -/
def Obligations.AgentsOrderKept : Prop :=
  ∀ s t : State, step s = .next t →
    t.env.turns = s.env.turns.tail ∧
    ∀ a : Agent, t.env.queue a =
      if s.env.turns.head? = some a then (s.env.queue a).tail else s.env.queue a

/-- With no request the block does nothing, and every register change and every transmission is the effect of
one operation presented by an agent (43_register_and_session_ops.md R119; that it never acts on its own is the
spec's decision D9). That a turn with nothing to present is an idle step, and that the turn then passes, is the
model's choice (log entry 1). -/
def Obligations.IdleDoesNothing : Prop :=
  (∀ s : State,
    (s.env.current = none ∨
      ∃ p : InPorts, s.env.current = some (.request p) ∧ p.reqValid = false ∧ p.rst = false) →
    step s = .next { s with
      out := { status := none, rawOut := none, fOut := none, frameOut := none, idOut := none, pOut := none,
               vOut := none, tOut := none, txValid := false, txAddr := none, txDlc := none, txData := none },
      env := s.env.advance }) ∧
  (∀ s t : State, step s = .next t → (t.sp ≠ s.sp ∨ t.tl ≠ s.tl ∨ t.out.txValid = true) →
    (∃ p : InPorts, s.env.current = some (.request p) ∧ p.rst = true) ∨
    ∃ (st : Stimulus) (i : Instr), presents s st ∧ decode st = .instr i)

/-- A step answers a next state exactly when nothing is presented, or ports without a request, or with `rst`, or
an operation inside the block's contract (30_encoding.md R62; 43_register_and_session_ops.md R117, R119;
40_quantizer.md R76; 70_reset_and_hazards.md R150). A turn with nothing presented is the model's (log entry
1); that `rst` wins over a request is log entry 11, and what is outside the contract log entries 7 and 10. -/
def Obligations.StepCompletesExactly : Prop :=
  ∀ s : State, (∃ t, step s = .next t) ↔
    s.env.current = none ∨
    (∃ p : InPorts, s.env.current = some (.request p) ∧ (p.rst = true ∨ p.reqValid = false)) ∨
    ∃ (st : Stimulus) (i : Instr), presents s st ∧ decode st = .instr i ∧ WellFormed i = true

/-- Every instruction completes exactly when it is inside the block's contract with its agents: an index that
names a register, range operands that keep the contract (43_register_and_session_ops.md R117; 40_quantizer.md
R76). -/
def Obligations.CompletesExactlyWhenWellFormed : Prop :=
  ∀ (i : Instr) (s : State), (∃ t, exec i s = .next t) ↔ WellFormed i = true

/-- A step is refused for a reserved request code, a pattern that is no control frame, or an instruction outside
the contract, and for nothing else (93_implementation_defined.md U2, U6, U7). R53 and U11 only say that such a
pattern is no control frame; that it is refused is log entry 16. -/
def Obligations.RefusesOnlyWhatTheSpecLeavesOut : Prop :=
  ∀ s : State, (∃ r, step s = .refused r) ↔
    ∃ st, presents s st ∧
      ((∃ i, decode st = .instr i ∧ WellFormed i = false) ∨ (∃ c, decode st = .reservedRequest c) ∨
        ∃ w, decode st = .notControlFrame w)

/-! ### binary64 -/

/-- roundTiesToEven (00_scope.md R7): no binary64 value is nearer to the exact quotient than the one rounding
gives, and where another is as near, the one given is even. Values count units of 2^-1074 (log entry 17). -/
def Obligations.RoundNearestEven : Prop :=
  ∀ n d m : Nat, 0 < d → roundMag n d < infMag → m < infMag →
    ((n : Int) - d * units (roundMag n d)).natAbs ≤ ((n : Int) - d * units m).natAbs ∧
    (((n : Int) - d * units (roundMag n d)).natAbs = ((n : Int) - d * units m).natAbs → m ≠ roundMag n d →
      roundMag n d % 2 = 0)

/-- Rounding gives an infinity exactly from half a step above the greatest finite value on. The spec names
IEEE-754 and does not say where it overflows: the bound is log entry 17. -/
def Obligations.RoundOverflow : Prop :=
  ∀ n d : Nat, 0 < d → (roundMag n d = infMag ↔ (2 ^ 54 - 1) * 2 ^ 2044 * d ≤ n)

/-- Each of the four operations is correctly rounded with roundTiesToEven (00_scope.md R7, 40_quantizer.md R78):
for finite operands and a finite result, no finite value is nearer to the exact result, and at a tie the
result is even. `fval` counts units of 2^-1074 (log entry 17). -/
def Obligations.ArithmeticCorrectlyRounded : Prop :=
  ∀ a b : F64, isFinite a = true → isFinite b = true →
    (isFinite (fadd a b) = true → nearestEven (fun c => (fval c - (fval a + fval b)).natAbs) (fadd a b)) ∧
    (isFinite (fsub a b) = true → nearestEven (fun c => (fval c - (fval a - fval b)).natAbs) (fsub a b)) ∧
    (isFinite (fmul a b) = true →
      nearestEven (fun c => (fval c * 2 ^ 1074 - fval a * fval b).natAbs) (fmul a b)) ∧
    (isFinite (fdiv a b) = true → fval b ≠ 0 →
      nearestEven (fun c => (fval c * fval b - fval a * 2 ^ 1074).natAbs) (fdiv a b))

/-- The conversions (00_scope.md R7): `u2f` is exact below 2^53, and `ftrunc` of a finite value that is not
negative is the largest integer at or below it. -/
def Obligations.ConversionsExact : Prop :=
  (∀ n : Nat, n < 2 ^ 53 → isFinite (u2f n) = true ∧ fval (u2f n) = n * 2 ^ 1074) ∧
  (∀ x : F64, isFinite x = true → 0 ≤ fval x →
    (ftrunc x : Int) * 2 ^ 1074 ≤ fval x ∧ fval x < ((ftrunc x : Int) + 1) * 2 ^ 1074)

/-! ### The quantizer -/

/-- QENC at a supported width with range operands inside the contract of R76 (40_quantizer.md R66): the raw code is
the formula, in its order, of the clamped value, and 0 for a NaN; status OK, no register changes. The order of
the operations is the spec's decision D5, the 0 for a NaN its decision D6 (log entry 6). -/
def Obligations.QencResult : Prop :=
  ∀ (sel : BitVec 2) (value min max : F64) (bits : BitVec 5) (n : Nat) (s : State),
    supportedWidth bits n → rangeContract min max bits →
      exec (.qenc sel value min max bits) s =
        .next { s with out := { status := some .ok, rawOut := some (qencRaw value min max bits) } } ∧
      qencRaw value min max bits =
        if isNaN value then 0#16
        else
          let v := if flt value min then min else if fgt value max then max else value
          BitVec.ofNat 16 (ftrunc (fdiv (fmul (fsub v min) (u2f n)) (fsub max min)))

/-- QDEC at a supported width with range operands inside the contract of R76 (40_quantizer.md R72): the value is
the formula, in its order, with no check of `raw` against the width (R74); status OK, no register changes. The order
of the operations is the spec's decision D5. -/
def Obligations.QdecResult : Prop :=
  ∀ (sel : BitVec 2) (raw : BitVec 16) (min max : F64) (bits : BitVec 5) (n : Nat) (s : State),
    supportedWidth bits n → rangeContract min max bits →
      exec (.qdec sel raw min max bits) s =
        .next { s with out := { status := some .ok, fOut := some (qdecValue raw min max bits) } } ∧
      qdecValue raw min max bits = fadd (fdiv (fmul (u2f raw.toNat) (fsub max min)) (u2f n)) min

/-- Unsupported widths (40_quantizer.md R69, R75): QENC gives 0 and QDEC `+0.0`, whatever the other operands are,
with status OK. The `+0.0` of QDEC is the spec's decision D12. -/
def Obligations.UnsupportedWidthsGiveZero : Prop :=
  ∀ (sel : BitVec 2) (value min max : F64) (raw : BitVec 16) (bits : BitVec 5) (s : State),
    bits ≠ 12#5 → bits ≠ 16#5 →
      exec (.qenc sel value min max bits) s =
        .next { s with out := { status := some .ok, rawOut := some 0#16 } } ∧
      exec (.qdec sel raw min max bits) s =
        .next { s with out := { status := some .ok, fOut := some 0x0000000000000000#64 } }

/-- Outside the contract of the range operands QENC and QDEC are refused (40_quantizer.md R76: "a model
refuses"), also for a NaN value (log entry 7). -/
def Obligations.RangeOutsideContractRefused : Prop :=
  ∀ (sel : BitVec 2) (value min max : F64) (raw : BitVec 16) (bits : BitVec 5) (s : State),
    ¬ rangeContract min max bits →
      exec (.qenc sel value min max bits) s = .refused .rangeOutsideContract ∧
      exec (.qdec sel raw min max bits) s = .refused .rangeOutsideContract

/-- The clamp (40_quantizer.md R67): below `min` the code is that of `min`, which is 0, and above `max` that of
`max`; infinities compare as any other value. -/
def Obligations.QencSaturates : Prop :=
  ∀ (value min max : F64) (bits : BitVec 5), rangeContract min max bits →
    qencRaw min min max bits = 0#16 ∧
    (flt value min = true → qencRaw value min max bits = qencRaw min min max bits) ∧
    (fgt value max = true → qencRaw value min max bits = qencRaw max min max bits)

/-- A greater value never has a smaller code (40_quantizer.md R71, row "monotone"), for every range inside the
contract and both widths. -/
def Obligations.QencMonotone : Prop :=
  ∀ (x y min max : F64) (bits : BitVec 5), rangeContract min max bits →
    isNaN x = false → isNaN y = false → fkey x ≤ fkey y →
      (qencRaw x min max bits).toNat ≤ (qencRaw y min max bits).toNat

/-- The code always fits its width (40_quantizer.md R71, row "range"; R77: "it always fits the field"). -/
def Obligations.QencWithinWidth : Prop :=
  ∀ (value min max : F64) (bits : BitVec 5) (n : Nat), rangeContract min max bits → supportedWidth bits n →
    (qencRaw value min max bits).toNat ≤ n

/-- The end points (40_quantizer.md R71, R73), for every row of the range table and both widths. -/
def Obligations.QuantizerEndPoints : Prop :=
  ∀ (c : Channel) (bits : BitVec 5) (n : Nat), supportedWidth bits n →
    qencRaw (Config.range c).min (Config.range c).min (Config.range c).max bits = 0#16 ∧
    qencRaw (Config.range c).max (Config.range c).min (Config.range c).max bits = BitVec.ofNat 16 n ∧
    qdecValue 0#16 (Config.range c).min (Config.range c).max bits = (Config.range c).min ∧
    qdecValue (BitVec.ofNat 16 n) (Config.range c).min (Config.range c).max bits = (Config.range c).max

/-! ### The frame codec -/

/-- PACK (41_frame_codec.md R81, with the byte equations of 30_encoding.md R48): the eight bytes, the same frame
as one vector, status OK, nothing transmitted, no register changed. -/
def Obligations.PackResult : Prop :=
  ∀ (sel : BitVec 2) (p v kp kd t : F64) (s : State),
    ∃ (w : Frame) (pos : BitVec 16) (vel kpr kdr trq : BitVec 12),
      exec (.pack sel p v kp kd t) s = .next { s with out := { status := some .ok, frameOut := some w } } ∧
      pos = qencRaw p 0xC029000000000000#64 0x4029000000000000#64 16#5 ∧
      vel.setWidth 16 = qencRaw v 0xC020000000000000#64 0x4020000000000000#64 12#5 ∧
      kpr.setWidth 16 = qencRaw kp 0x0000000000000000#64 0x407F400000000000#64 12#5 ∧
      kdr.setWidth 16 = qencRaw kd 0x0000000000000000#64 0x4014000000000000#64 12#5 ∧
      trq.setWidth 16 = qencRaw t 0xC062000000000000#64 0x4062000000000000#64 12#5 ∧
      (frameByte w 0).toNat = pos.toNat / 256 ∧ (frameByte w 1).toNat = pos.toNat % 256 ∧
      (frameByte w 2).toNat = vel.toNat / 16 ∧ (frameByte w 3).toNat = vel.toNat % 16 * 16 + kpr.toNat / 256 ∧
      (frameByte w 4).toNat = kpr.toNat % 256 ∧ (frameByte w 5).toNat = kdr.toNat / 16 ∧
      (frameByte w 6).toNat = kdr.toNat % 16 * 16 + trq.toNat / 256 ∧
      (frameByte w 7).toNat = trq.toNat % 256 ∧
      w = pos ++ vel ++ kpr ++ kdr ++ trq

/-- Clamping a setpoint to its channel's range before it is packed changes no frame (41_frame_codec.md R82). -/
def Obligations.PackClampsOnce : Prop :=
  ∀ (sel : BitVec 2) (p v kp kd t : F64) (s : State),
    exec (.pack sel (clampTo p (Config.range .position).min (Config.range .position).max)
      (clampTo v (Config.range .velocity).min (Config.range .velocity).max)
      (clampTo kp (Config.range .kp).min (Config.range .kp).max)
      (clampTo kd (Config.range .kd).min (Config.range .kd).max)
      (clampTo t (Config.range .torque).min (Config.range .torque).max)) s =
    exec (.pack sel p v kp kd t) s

/-- UNPACK (41_frame_codec.md R85, R88, with the equations of 30_encoding.md R51): `DecodeTooShort` with no data
output when `len < 6`; otherwise the id byte and the three decoded values, torque with the range
[-144.0, 144.0] (R87). No register changes. -/
def Obligations.UnpackResult : Prop :=
  ∀ (sel : BitVec 2) (w : Frame) (len : BitVec 4) (s : State),
    (len.toNat < 6 →
      exec (.unpack sel w len) s = .next { s with out := { status := some .decodeTooShort } }) ∧
    (6 ≤ len.toNat → ∃ pos vel trq : BitVec 16,
      pos.toNat = (frameByte w 1).toNat * 256 + (frameByte w 2).toNat ∧
      vel.toNat = (frameByte w 3).toNat * 16 + (frameByte w 4).toNat / 16 ∧
      trq.toNat = (frameByte w 4).toNat % 16 * 256 + (frameByte w 5).toNat ∧
      exec (.unpack sel w len) s = .next { s with
        out := { status := some .ok, idOut := some (frameByte w 0),
                 pOut := some (qdecValue pos 0xC029000000000000#64 0x4029000000000000#64 16#5),
                 vOut := some (qdecValue vel 0xC020000000000000#64 0x4020000000000000#64 12#5),
                 tOut := some (qdecValue trq 0xC062000000000000#64 0x4062000000000000#64 12#5) } })

/-- A successful decode depends on neither `len` nor `B[6]` and `B[7]` (41_frame_codec.md R88, R89). -/
def Obligations.DecodeIgnoresLengthAndLastBytes : Prop :=
  ∀ (sel : BitVec 2) (w w' : Frame) (len len' : BitVec 4) (s : State),
    w.extractLsb' 16 48 = w'.extractLsb' 16 48 → 6 ≤ len.toNat → 6 ≤ len'.toNat →
      exec (.unpack sel w len) s = exec (.unpack sel w' len') s ∧
      exec (.rx sel w len) s = exec (.rx sel w' len') s

/-- Every decoded reply value is finite, in its range, and no zero of either sign (41_frame_codec.md R86, R90). -/
def Obligations.DecodedReplyInRangeAndNotZero : Prop :=
  ∀ (w : Frame) (len : BitVec 4) (r : Reply), unpackFrame w len = some r →
    inRange (Config.range .position) r.p = true ∧ inRange (Config.range .velocity) r.v = true ∧
    inRange replyTorqueRange r.t = true ∧ fmag r.p ≠ 0 ∧ fmag r.v ≠ 0 ∧ fmag r.t ≠ 0

/-- Frames the spec works out (41_frame_codec.md R81, R83; 70_reset_and_hazards.md R157): the golden frame, the
reset setpoints, both ends, saturation. -/
def Obligations.WorkedCommandFrames : Prop :=
  packFrame 0x4014000000000000#64 0x4000000000000000#64 0x4059000000000000#64 0x4000000000000000#64
    0x4024000000000000#64 = 0xB3329FF33366688D#64 ∧
  packFrame 0#64 0#64 0#64 0x3FE0000000000000#64 0#64 = 0x7FFF7FF0001997FF#64 ∧
  packFrame 0xC029000000000000#64 0xC020000000000000#64 0#64 0#64 0xC062000000000000#64 = 0#64 ∧
  packFrame 0x4029000000000000#64 0x4020000000000000#64 0x407F400000000000#64 0x4014000000000000#64
    0x4062000000000000#64 = 0xFFFFFFFFFFFFFFFF#64 ∧
  packFrame 0x7FF0000000000000#64 0xFFF0000000000000#64 0x7FF0000000000000#64 0xFFF0000000000000#64
    0x7FF0000000000000#64 = 0xFFFF000FFF000FFF#64

/-! ### The transmit path -/

/-- TX.ENTER, TX.EXIT and TX.ZERO (42_mode_commands_and_mux.md R97, R98, R99): each emits its constant frame at
address 0x17 with length 8, reports the transport's answer, and changes no register. -/
def Obligations.ModeCommandsEmit : Prop :=
  ∀ (busOk : Bool) (s : State),
    exec (.txEnter busOk) s = .next { s with
      out := { status := some (if busOk then .ok else .transportError), txValid := true, txAddr := some 0x017#11,
               txDlc := some 8#4, txData := some 0xFFFFFFFFFFFFFFFC#64 } } ∧
    exec (.txExit busOk) s = .next { s with
      out := { status := some (if busOk then .ok else .transportError), txValid := true, txAddr := some 0x017#11,
               txDlc := some 8#4, txData := some 0xFFFFFFFFFFFFFFFD#64 } } ∧
    exec (.txZero busOk) s = .next { s with
      out := { status := some (if busOk then .ok else .transportError), txValid := true, txAddr := some 0x017#11,
               txDlc := some 8#4, txData := some 0xFFFFFFFFFFFFFFFE#64 } }

/-- TX.CMD (42_mode_commands_and_mux.md R100): it emits the frame PACK gives for the five setpoint registers, at
address 0x17 with length 8, reports the transport's answer, and changes no register. -/
def Obligations.TxCmdEmitsPackedSetpoints : Prop :=
  ∀ (busOk : Bool) (sel : BitVec 2) (s : State),
    ∃ w : Frame,
      exec (.pack sel s.sp.position s.sp.velocity s.sp.kp s.sp.kd s.sp.torque) s =
        .next { s with out := { status := some .ok, frameOut := some w } } ∧
      exec (.txCmd busOk) s = .next { s with
        out := { status := some (if busOk then .ok else .transportError), txValid := true,
                 txAddr := some 0x017#11, txDlc := some 8#4, txData := some w } }

/-- Two transmissions, in either order, emit the same two whole frames and change no register
(42_mode_commands_and_mux.md R104): what one emits does not depend on the other having gone before. -/
def Obligations.TransmissionsDoNotInterfere : Prop :=
  ∀ (i j : Instr) (s t : State), transmits i = true → transmits j = true → exec i s = .next t →
    t.sp = s.sp ∧ t.tl = s.tl ∧ exec j t = exec j s

/-- A command frame equals a control frame exactly when position, velocity, kp and kd have their maximum raw code
and the torque code is 0xFFC + c (42_mode_commands_and_mux.md R106). -/
def Obligations.AliasByRawCodes : Prop :=
  ∀ (sp : Setpoints) (c : BitVec 2), c ≠ 3#2 →
    (txFrame 3#2 sp = txFrame c sp ↔
      encodeChannel .position sp.position = 0xFFFF#16 ∧ encodeChannel .velocity sp.velocity = 0x0FFF#16 ∧
      encodeChannel .kp sp.kp = 0x0FFF#16 ∧ encodeChannel .kd sp.kd = 0x0FFF#16 ∧
      (encodeChannel .torque sp.torque).toNat = 0xFFC + c.toNat)

/-- The exact set of setpoints for which TX.CMD emits the pattern of a control frame (70_reset_and_hazards.md
R156). -/
def Obligations.CommandFrameAliasSet : Prop :=
  ∀ sp : Setpoints,
    let top := atLeast sp.position 0x4028FFFFFFFFFFFF#64 ∧ atLeast sp.velocity 0x401FFFFFFFFFFFFF#64 ∧
      atLeast sp.kp 0x407F400000000000#64 ∧ atLeast sp.kd 0x4014000000000000#64
    (txFrame 3#2 sp = 0xFFFFFFFFFFFFFFFC#64 ↔
      top ∧ atLeast sp.torque 0x4061F93F93F93F93#64 ∧ atMost sp.torque 0x4061FB7FB7FB7FB6#64) ∧
    (txFrame 3#2 sp = 0xFFFFFFFFFFFFFFFD#64 ↔
      top ∧ atLeast sp.torque 0x4061FB7FB7FB7FB7#64 ∧ atMost sp.torque 0x4061FDBFDBFDBFDA#64) ∧
    (txFrame 3#2 sp = 0xFFFFFFFFFFFFFFFE#64 ↔
      top ∧ atLeast sp.torque 0x4061FDBFDBFDBFDB#64 ∧ atMost sp.torque 0x4061FFFFFFFFFFFE#64) ∧
    (txFrame 3#2 sp = 0xFFFFFFFFFFFFFFFF#64 ↔ top ∧ atLeast sp.torque 0x4061FFFFFFFFFFFF#64)

/-- Every step keeps the form of the outputs: a transmission carries address 0x17 and length 8, nothing is valid
on the transmit port otherwise, `TransportError` comes with a transmission and `DecodeTooShort` with no data
(42_mode_commands_and_mux.md R102; 60_exceptions.md R126, R128, R129). -/
def Obligations.OutputsFormKept : Prop :=
  ∀ s t : State, outputsOk s.out = true → step s = .next t → outputsOk t.out = true

/-- The outputs have their form after reset. -/
def Obligations.OutputsFormAtReset : Prop := outputsOk State.reset.out = true

/-- The codes of the status (60_exceptions.md R127): 0b11 is never produced. -/
def Obligations.StatusCodes : Prop :=
  Status.code .ok = 0b00#2 ∧ Status.code .decodeTooShort = 0b01#2 ∧ Status.code .transportError = 0b10#2 ∧
    ∀ st : Status, st.code ≠ 0b11#2

/-! ### Registers and session -/

/-- WRSP (43_register_and_session_ops.md R111): exactly the register the index names takes the value, bit for
bit; nothing else changes and nothing is sent. -/
def Obligations.WrspWritesOneRegister : Prop :=
  ∀ (sel : BitVec 2) (v : F64) (s : State),
    exec (.wrsp sel 0#3 v) s =
      .next { s with sp := { s.sp with position := v }, out := { status := some .ok } } ∧
    exec (.wrsp sel 1#3 v) s =
      .next { s with sp := { s.sp with velocity := v }, out := { status := some .ok } } ∧
    exec (.wrsp sel 2#3 v) s = .next { s with sp := { s.sp with kp := v }, out := { status := some .ok } } ∧
    exec (.wrsp sel 3#3 v) s = .next { s with sp := { s.sp with kd := v }, out := { status := some .ok } } ∧
    exec (.wrsp sel 4#3 v) s = .next { s with sp := { s.sp with torque := v }, out := { status := some .ok } }

/-- RDSP (43_register_and_session_ops.md R112, the spec's own addition D2): the register's bits, no register
changed. -/
def Obligations.RdspReadsOneRegister : Prop :=
  ∀ (sel : BitVec 2) (s : State),
    exec (.rdsp sel 0#3) s = .next { s with out := { status := some .ok, fOut := some s.sp.position } } ∧
    exec (.rdsp sel 1#3) s = .next { s with out := { status := some .ok, fOut := some s.sp.velocity } } ∧
    exec (.rdsp sel 2#3) s = .next { s with out := { status := some .ok, fOut := some s.sp.kp } } ∧
    exec (.rdsp sel 3#3) s = .next { s with out := { status := some .ok, fOut := some s.sp.kd } } ∧
    exec (.rdsp sel 4#3) s = .next { s with out := { status := some .ok, fOut := some s.sp.torque } }

/-- RDTL (43_register_and_session_ops.md R113): the register's bits, no register changed. -/
def Obligations.RdtlReadsOneRegister : Prop :=
  ∀ (sel : BitVec 2) (s : State),
    exec (.rdtl sel 0#3) s = .next { s with out := { status := some .ok, fOut := some s.tl.position } } ∧
    exec (.rdtl sel 1#3) s = .next { s with out := { status := some .ok, fOut := some s.tl.velocity } } ∧
    exec (.rdtl sel 2#3) s = .next { s with out := { status := some .ok, fOut := some s.tl.torque } }

/-- An index that names no register is refused (43_register_and_session_ops.md R117, decision D22; log entry 10). -/
def Obligations.IndexNamingNothingRefused : Prop :=
  ∀ (sel : BitVec 2) (idx : BitVec 3) (v : F64) (s : State),
    (5 ≤ idx.toNat → exec (.wrsp sel idx v) s = .refused (.noSuchSetpoint idx) ∧
      exec (.rdsp sel idx) s = .refused (.noSuchSetpoint idx)) ∧
    (3 ≤ idx.toNat → exec (.rdtl sel idx) s = .refused (.noSuchTelemetry idx))

/-- A value written by WRSP is what RDSP of that index returns, bit for bit, and every other index reads as
before (20_memory.md R38; 43_register_and_session_ops.md R112). -/
def Obligations.WrittenSetpointReadsBack : Prop :=
  ∀ (sel sel' : BitVec 2) (idx idx' : BitVec 3) (v : F64) (s t : State),
    exec (.wrsp sel idx v) s = .next t →
      exec (.rdsp sel' idx) t = .next { t with out := { status := some .ok, fOut := some v } } ∧
      (idx' ≠ idx → ∀ x u, exec (.rdsp sel' idx') s = .next u → u.out.fOut = some x →
        exec (.rdsp sel' idx') t = .next { t with out := { status := some .ok, fOut := some x } })

/-- Last write wins, on both groups (43_register_and_session_ops.md R118): two WRSP to one index leave the second
value, with nothing or with a TX.CMD between them, two successful RX the second reply, and a TX.CMD between two
WRSP sends the first value. -/
def Obligations.LastWriteWins : Prop :=
  ∀ (sel sel' : BitVec 2) (idx : BitVec 3) (v v' : F64) (w w' : Frame) (len len' : BitVec 4) (busOk : Bool)
    (s t u : State),
    (exec (.wrsp sel idx v) s = .next t → exec (.wrsp sel' idx v') t = exec (.wrsp sel' idx v') s) ∧
    (exec (.wrsp sel idx v) s = .next t → exec (.txCmd busOk) t = .next u →
      t.sp.read idx = some v ∧
      u.out.txData = some (packFrame t.sp.position t.sp.velocity t.sp.kp t.sp.kd t.sp.torque) ∧
      exec (.wrsp sel' idx v') u = exec (.wrsp sel' idx v') s) ∧
    (6 ≤ len.toNat → 6 ≤ len'.toNat → exec (.rx sel w len) s = .next t →
      exec (.rx sel' w' len') t = exec (.rx sel' w' len') s)

/-- RX (43_register_and_session_ops.md R114, R115): with `len < 6` the status is `DecodeTooShort` and telemetry is
unchanged; otherwise the outputs are those of UNPACK and all three telemetry registers take them. Setpoints
never change. -/
def Obligations.RxPublishesAllOrNothing : Prop :=
  ∀ (sel : BitVec 2) (w : Frame) (len : BitVec 4) (s : State),
    (len.toNat < 6 → exec (.rx sel w len) s = .next { s with out := { status := some .decodeTooShort } }) ∧
    (6 ≤ len.toNat → ∃ (id : Byte) (p v t : F64),
      exec (.unpack sel w len) s = .next { s with
        out := { status := some .ok, idOut := some id, pOut := some p, vOut := some v, tOut := some t } } ∧
      exec (.rx sel w len) s = .next { s with
        tl := { position := p, velocity := v, torque := t },
        out := { status := some .ok, idOut := some id, pOut := some p, vOut := some v, tOut := some t } })

/-- DISC (43_register_and_session_ops.md R116): telemetry takes its defaults, setpoints stay, nothing is emitted. -/
def Obligations.DiscResetsTelemetryOnly : Prop :=
  ∀ (sel : BitVec 2) (s : State),
    exec (.disc sel) s = .next { s with
      tl := { position := 0x0000000000000000#64, velocity := 0x0000000000000000#64,
              torque := 0x0000000000000000#64 },
      out := { status := some .ok } }

/-- The wire-frame rows: a received frame is an RX of its 8 bytes, whatever its format (30_encoding.md R46, R58;
60_exceptions.md R136; 70_reset_and_hazards.md R163). That executing such a row is POLL's RX of it is the model's
choice (log entry 3). -/
def Obligations.ArrivingFramesArePublished : Prop :=
  ∀ (sel : BitVec 2) (s : State),
    (∀ (fmt : FrameFormat) (w : Frame) (i : Instr), decode (.frame fmt w) = .instr i →
      exec i s = exec (.rx sel w 8#4) s) ∧
    (∀ (pos : BitVec 16) (vel kp kd trq : BitVec 12), ∃ t,
      exec (.frameCmd pos vel kp kd trq) s = .next t ∧
      exec (.rx sel (pos ++ vel ++ kp ++ kd ++ trq) 8#4) s = .next t ∧ t.sp = s.sp ∧
      t.out.idOut = some (pos.extractLsb' 8 8)) ∧
    (∀ (id : Byte) (pos : BitVec 16) (vel trq : BitVec 12) (ignored : BitVec 16),
      exec (.frameReply id pos vel trq ignored) s = .next { s with
        tl := { position := qdecValue pos 0xC029000000000000#64 0x4029000000000000#64 16#5,
                velocity := qdecValue (vel.setWidth 16) 0xC020000000000000#64 0x4020000000000000#64 12#5,
                torque := qdecValue (trq.setWidth 16) 0xC062000000000000#64 0x4062000000000000#64 12#5 },
        out := { status := some .ok, idOut := some id,
                 pOut := some (qdecValue pos 0xC029000000000000#64 0x4029000000000000#64 16#5),
                 vOut := some (qdecValue (vel.setWidth 16) 0xC020000000000000#64 0x4020000000000000#64 12#5),
                 tOut := some (qdecValue (trq.setWidth 16) 0xC062000000000000#64 0x4062000000000000#64 12#5) } }) ∧
    (∀ i : Instr, i = .frameEnter ∨ i = .frameExit ∨ i = .frameZero →
      exec i s = .next { s with
        tl := { position := 0x4029000000000000#64, velocity := 0x4020000000000000#64,
                torque := 0x4062000000000000#64 },
        out := { status := some .ok, idOut := some 0xFF#8, pOut := some 0x4029000000000000#64,
                 vOut := some 0x4020000000000000#64, tOut := some 0x4062000000000000#64 } })

/-- The register values after reset (10_state.md R13; the sign of the zeros is the spec's decision D28), and
`tx_valid = 0` (70_reset_and_hazards.md R150). -/
def Obligations.ResetStateValues : Prop :=
  State.reset.sp =
    { position := 0x0000000000000000#64, velocity := 0x0000000000000000#64, kp := 0x0000000000000000#64,
      kd := 0x3FE0000000000000#64, torque := 0x0000000000000000#64 } ∧
  State.reset.tl =
    { position := 0x0000000000000000#64, velocity := 0x0000000000000000#64, torque := 0x0000000000000000#64 } ∧
  State.reset.out.txValid = false

/-- Asserting `rst` puts every register at its default and emits nothing, whatever else is presented
(70_reset_and_hazards.md R150; that it wins over a request is log entry 11). -/
def Obligations.ResetInputRestoresDefaults : Prop :=
  ∀ (s : State) (p : InPorts), s.env.current = some (.request p) → p.rst = true →
    ∃ t, step s = .next t ∧ t.sp = State.reset.sp ∧ t.tl = State.reset.tl ∧ t.out = State.reset.out

/-! ### The whole machine -/

/-- Which operations change what (10_state.md R11, R12; 60_exceptions.md R139; 42_mode_commands_and_mux.md R102;
70_reset_and_hazards.md R158): setpoints only by WRSP, telemetry only by RX, DISC and an arriving frame (log
entry 3), the transmit port only by TX. No operation touches what the agents have still to present. -/
def Obligations.WhoChangesWhat : Prop :=
  ∀ (i : Instr) (s t : State), exec i s = .next t →
    (writesSetpoints i = false → t.sp = s.sp) ∧ (writesTelemetry i = false → t.tl = s.tl) ∧
    t.out.txValid = transmits i ∧ t.env = s.env

/-- No read has a side effect, and repeating an operation gives the same registers and the same outputs
(20_memory.md R37). The rule speaks of the operations; that the wire-frame rows behave as RX does is the model's
choice (log entry 3). -/
def Obligations.RepeatingGivesTheSame : Prop :=
  ∀ (i : Instr) (s t : State), exec i s = .next t →
    exec i t = .next t ∧ (writesSetpoints i = false → writesTelemetry i = false → t = { s with out := t.out })

/-- Setpoints never reach telemetry and telemetry never reaches setpoints or the transmit port (60_exceptions.md
R139): two states that agree on one group still agree on it after any step from the same presented stimuli. -/
def Obligations.GroupsDoNotMix : Prop :=
  ∀ s s' t t' : State, s.env = s'.env → step s = .next t → step s' = .next t' →
    (s.tl = s'.tl → t.tl = t'.tl) ∧
    (s.sp = s'.sp → t.sp = t'.sp ∧ t.out.txValid = t'.out.txValid ∧ t.out.txData = t'.out.txData)

/-- Every step keeps telemetry finite and in range (10_state.md R15; 41_frame_codec.md R86). -/
def Obligations.TelemetryRangeKept : Prop :=
  ∀ s t : State, telemetryOk s.tl = true → step s = .next t → telemetryOk t.tl = true

/-- Telemetry is in range after reset. -/
def Obligations.TelemetryRangeAtReset : Prop := telemetryOk State.reset.tl = true

/-- Every step of a machine whose agents keep to their duties leaves them to their duties, and in it setpoints
change only in HOST's turn, telemetry only in POLL's turn or, to its defaults, in HOST's, and a frame goes out
only in HOST's or SCHED's: BUS changes nothing (10_state.md R24; 60_exceptions.md R133 to R136). The queues and
the turns are the model's (log entry 1), and so is a wire-frame row as POLL's RX (log entry 3). -/
def Obligations.DutiesKeepOwnership : Prop :=
  ∀ s t : State, disciplined s.env = true → step s = .next t →
    disciplined t.env = true ∧
    (t.sp ≠ s.sp → s.env.turns.head? = some .host) ∧
    (t.tl ≠ s.tl → s.env.turns.head? = some .poll ∨
      (s.env.turns.head? = some .host ∧ t.tl = Telemetry.defaults)) ∧
    (t.out.txValid = true → s.env.turns.head? = some .host ∨ s.env.turns.head? = some .sched)
end

