-- ==== Sys2Proof/Laws/State.lean ====
section
/-! SUPPORT. What each update of the state does to each field, once, so that no later proof unfolds an update. -/

namespace Sys2Proof.Machine

@[simp] theorem State.respond_sp (s : State) (o : OutPorts) : (s.respond o).sp = s.sp := rfl
@[simp] theorem State.respond_tl (s : State) (o : OutPorts) : (s.respond o).tl = s.tl := rfl
@[simp] theorem State.respond_out (s : State) (o : OutPorts) : (s.respond o).out = o := rfl
@[simp] theorem State.respond_env (s : State) (o : OutPorts) : (s.respond o).env = s.env := rfl
@[simp] theorem State.respond_respond (s : State) (o o' : OutPorts) :
    (s.respond o).respond o' = s.respond o' := rfl

@[simp] theorem State.setSetpoints_sp (s : State) (sp : Setpoints) : (s.setSetpoints sp).sp = sp := rfl
@[simp] theorem State.setSetpoints_tl (s : State) (sp : Setpoints) : (s.setSetpoints sp).tl = s.tl := rfl
@[simp] theorem State.setSetpoints_out (s : State) (sp : Setpoints) : (s.setSetpoints sp).out = s.out := rfl
@[simp] theorem State.setSetpoints_env (s : State) (sp : Setpoints) : (s.setSetpoints sp).env = s.env := rfl

@[simp] theorem State.setTelemetry_sp (s : State) (tl : Telemetry) : (s.setTelemetry tl).sp = s.sp := rfl
@[simp] theorem State.setTelemetry_tl (s : State) (tl : Telemetry) : (s.setTelemetry tl).tl = tl := rfl
@[simp] theorem State.setTelemetry_out (s : State) (tl : Telemetry) : (s.setTelemetry tl).out = s.out := rfl
@[simp] theorem State.setTelemetry_env (s : State) (tl : Telemetry) : (s.setTelemetry tl).env = s.env := rfl

@[simp] theorem State.raise_sp (s : State) (e : Status) : (s.raise e).sp = s.sp := rfl
@[simp] theorem State.raise_tl (s : State) (e : Status) : (s.raise e).tl = s.tl := rfl
@[simp] theorem State.raise_out (s : State) (e : Status) : (s.raise e).out = OutPorts.statusOnly e := rfl
@[simp] theorem State.raise_env (s : State) (e : Status) : (s.raise e).env = s.env := rfl

@[simp] theorem State.emit_sp (s : State) (w : Frame) (ok : Bool) : (s.emit w ok).sp = s.sp := rfl
@[simp] theorem State.emit_tl (s : State) (w : Frame) (ok : Bool) : (s.emit w ok).tl = s.tl := rfl
@[simp] theorem State.emit_out (s : State) (w : Frame) (ok : Bool) :
    (s.emit w ok).out = OutPorts.transmit w ok := rfl
@[simp] theorem State.emit_env (s : State) (w : Frame) (ok : Bool) : (s.emit w ok).env = s.env := rfl

@[simp] theorem State.transmit_sp (s : State) (sel : BitVec 2) (ok : Bool) : (s.transmit sel ok).sp = s.sp := rfl
@[simp] theorem State.transmit_tl (s : State) (sel : BitVec 2) (ok : Bool) : (s.transmit sel ok).tl = s.tl := rfl
@[simp] theorem State.transmit_out (s : State) (sel : BitVec 2) (ok : Bool) :
    (s.transmit sel ok).out = OutPorts.transmit (txFrame sel s.sp) ok := rfl
@[simp] theorem State.transmit_env (s : State) (sel : BitVec 2) (ok : Bool) :
    (s.transmit sel ok).env = s.env := rfl

@[simp] theorem State.resetRegisters_sp (s : State) : s.resetRegisters.sp = Setpoints.defaults := rfl
@[simp] theorem State.resetRegisters_tl (s : State) : s.resetRegisters.tl = Telemetry.defaults := rfl
@[simp] theorem State.resetRegisters_out (s : State) : s.resetRegisters.out = OutPorts.quiet := rfl
@[simp] theorem State.resetRegisters_env (s : State) : s.resetRegisters.env = s.env := rfl

@[simp] theorem State.idle_sp (s : State) : s.idle.sp = s.sp := rfl
@[simp] theorem State.idle_tl (s : State) : s.idle.tl = s.tl := rfl
@[simp] theorem State.idle_out (s : State) : s.idle.out = OutPorts.quiet := rfl
@[simp] theorem State.idle_env (s : State) : s.idle.env = s.env := rfl

@[simp] theorem State.advance_sp (s : State) : s.advance.sp = s.sp := rfl
@[simp] theorem State.advance_tl (s : State) : s.advance.tl = s.tl := rfl
@[simp] theorem State.advance_out (s : State) : s.advance.out = s.out := rfl
@[simp] theorem State.advance_env (s : State) : s.advance.env = s.env.advance := rfl

@[simp] theorem State.decodeReply_sp (s : State) (w : Frame) (len : BitVec 4) :
    (s.decodeReply w len).sp = s.sp := by unfold State.decodeReply; split <;> rfl
@[simp] theorem State.decodeReply_tl (s : State) (w : Frame) (len : BitVec 4) :
    (s.decodeReply w len).tl = s.tl := by unfold State.decodeReply; split <;> rfl
@[simp] theorem State.decodeReply_env (s : State) (w : Frame) (len : BitVec 4) :
    (s.decodeReply w len).env = s.env := by unfold State.decodeReply; split <;> rfl

@[simp] theorem State.receive_sp (s : State) (w : Frame) (len : BitVec 4) :
    (s.receive w len).sp = s.sp := by unfold State.receive; split <;> rfl
@[simp] theorem State.receive_env (s : State) (w : Frame) (len : BitVec 4) :
    (s.receive w len).env = s.env := by unfold State.receive; split <;> rfl

@[simp] theorem State.arrive_sp (s : State) (i : Instr) : (s.arrive i).sp = s.sp := State.receive_sp _ _ _
@[simp] theorem State.arrive_env (s : State) (i : Instr) : (s.arrive i).env = s.env := State.receive_env _ _ _

end Sys2Proof.Machine
end

