-- ==== Sys2Proof/Laws/Ops.lean ====
section
/-! SUPPORT. One lemma for each shared operation that says once everything it can do. -/

namespace Sys2Proof.Machine

/-- The setpoint indices that name a register (10_state.md R11). -/
theorem setpointChannel_eq (idx : BitVec 3) :
    setpointChannel idx =
      if idx = 0#3 then some .position else if idx = 1#3 then some .velocity
      else if idx = 2#3 then some .kp else if idx = 3#3 then some .kd
      else if idx = 4#3 then some .torque else none := by
  revert idx; decide

/-- The telemetry indices that name a register (10_state.md R12). -/
theorem telemetryChannel_eq (idx : BitVec 3) :
    telemetryChannel idx =
      if idx = 0#3 then some .position else if idx = 1#3 then some .velocity
      else if idx = 2#3 then some .torque else none := by
  revert idx; decide

/-- The supported widths (40_quantizer.md R69). -/
theorem stepsOf_eq (bits : BitVec 5) :
    stepsOf bits = if bits = 12#5 then some 4095 else if bits = 16#5 then some 65535 else none := by
  revert bits; decide

/-- Which replies are too short (41_frame_codec.md R88). -/
theorem tooShort_iff (len : BitVec 4) : tooShort len = true ↔ len.toNat < 6 := by
  revert len; decide

/-- A written setpoint reads back, and every other one reads as before (43_register_and_session_ops.md R111). -/
theorem Setpoints.get_set (sp : Setpoints) (c c' : Channel) (v : F64) :
    (sp.set c v).get c' = if c' = c then v else sp.get c' := by
  cases c <;> cases c' <;> rfl

/-- A write through an index either names no register, or replaces exactly the register it names. -/
theorem Setpoints.write_eq_some (sp sp' : Setpoints) (idx : BitVec 3) (v : F64) :
    sp.write idx v = some sp' ↔ ∃ c, setpointChannel idx = some c ∧ sp' = sp.set c v := by
  unfold Setpoints.write
  cases setpointChannel idx <;> simp [eq_comm]

/-- A read through a setpoint index. -/
theorem Setpoints.read_eq_some (sp : Setpoints) (idx : BitVec 3) (v : F64) :
    sp.read idx = some v ↔ ∃ c, setpointChannel idx = some c ∧ v = sp.get c := by
  unfold Setpoints.read
  cases setpointChannel idx <;> simp [eq_comm]

/-- The telemetry registers by index. -/
theorem Telemetry.read_eq (tl : Telemetry) (idx : BitVec 3) :
    tl.read idx =
      if idx = 0#3 then some tl.position else if idx = 1#3 then some tl.velocity
      else if idx = 2#3 then some tl.torque else none := by
  unfold Telemetry.read
  rw [telemetryChannel_eq]
  split_ifs <;> rfl

/-- UNPACK ends in one of two ways (41_frame_codec.md R85, R88). -/
theorem unpackFrame_eq (w : Frame) (len : BitVec 4) :
    unpackFrame w len = if len.toNat < 6 then none else some (replyOf w) := by
  unfold unpackFrame
  by_cases h : len.toNat < 6
  · rw [if_pos ((tooShort_iff len).2 h), if_pos h]
  · rw [if_neg (mt (tooShort_iff len).1 h), if_neg h]

/-- A receive ends in one of two ways (43_register_and_session_ops.md R114, R115). -/
theorem State.receive_eq (s : State) (w : Frame) (len : BitVec 4) :
    s.receive w len =
      if len.toNat < 6 then s.raise .decodeTooShort
      else (s.setTelemetry (replyOf w).telemetry).respond (OutPorts.decodedReply (replyOf w)) := by
  unfold State.receive
  rw [unpackFrame_eq]
  by_cases h : len.toNat < 6
  · rw [if_pos h, if_pos h]
  · rw [if_neg h, if_neg h]

/-- Decoding a reply without publishing it ends in one of two ways (41_frame_codec.md R85, R88). -/
theorem State.decodeReply_eq (s : State) (w : Frame) (len : BitVec 4) :
    s.decodeReply w len =
      if len.toNat < 6 then s.raise .decodeTooShort
      else s.respond (OutPorts.decodedReply (replyOf w)) := by
  unfold State.decodeReply
  rw [unpackFrame_eq]
  by_cases h : len.toNat < 6
  · rw [if_pos h, if_pos h]
  · rw [if_neg h, if_neg h]

/-- An arriving frame has all its 8 bytes, so it is always decoded and published. -/
theorem State.arrive_eq (s : State) (i : Instr) :
    s.arrive i =
      (s.setTelemetry (replyOf (frameBits i)).telemetry).respond
        (OutPorts.decodedReply (replyOf (frameBits i))) := by
  unfold State.arrive
  rw [State.receive_eq, if_neg (by decide)]

/-- The agents' side after a turn: the queue whose turn it was loses its head, the others keep theirs. -/
theorem Environment.queue_advance (e : Environment) (a : Agent) :
    e.advance.queue a = if e.turns.head? = some a then (e.queue a).tail else e.queue a := by
  unfold Environment.advance
  cases h : e.turns with
  | nil => simp
  | cons b rest => cases a <;> cases b <;> simp [Environment.setQueue, Environment.queue]

/-- The turns after a turn. -/
theorem Environment.turns_advance (e : Environment) : e.advance.turns = e.turns.tail := by
  unfold Environment.advance
  cases h : e.turns <;> simp [h]

/-- A stimulus given the next turn is what is presented now. -/
theorem Environment.current_present (e : Environment) (a : Agent) (st : Stimulus) :
    (e.present a st).current = some st := by
  cases a <;> rfl

/-- Presenting a stimulus and letting its turn pass gives the agents' side back. -/
theorem Environment.advance_present (e : Environment) (a : Agent) (st : Stimulus) :
    (e.present a st).advance = e := by
  cases a <;> rfl

end Sys2Proof.Machine
end

