-- ==== Sys2Proof/Laws/Exec.lean ====
section
/-! SUPPORT. One inversion lemma for each meaning: if it answers a next state, then that state is this one. -/

namespace Sys2Proof.Machine

theorem execQenc_next {sel : BitVec 2} {v min max : F64} {bits : BitVec 5} {s t : State}
    (h : execQenc sel v min max bits s = .next t) :
    inContract min max bits = true ∧ t = s.respond (OutPorts.raw (qencRaw v min max bits)) := by
  unfold execQenc at h
  split at h
  · exact ⟨‹_›, by injection h with h; exact h.symm⟩
  · cases h

theorem execQdec_next {sel : BitVec 2} {raw : BitVec 16} {min max : F64} {bits : BitVec 5} {s t : State}
    (h : execQdec sel raw min max bits s = .next t) :
    inContract min max bits = true ∧ t = s.respond (OutPorts.value (qdecValue raw min max bits)) := by
  unfold execQdec at h
  split at h
  · exact ⟨‹_›, by injection h with h; exact h.symm⟩
  · cases h

theorem execWrsp_next {sel : BitVec 2} {idx : BitVec 3} {v : F64} {s t : State}
    (h : execWrsp sel idx v s = .next t) :
    ∃ c, setpointChannel idx = some c ∧
      t = (s.setSetpoints (s.sp.set c v)).respond (OutPorts.statusOnly .ok) := by
  unfold execWrsp at h
  split at h
  · cases h
  · rename_i sp hsp
    obtain ⟨c, hc, rfl⟩ := (Setpoints.write_eq_some _ _ _ _).1 hsp
    exact ⟨c, hc, by injection h with h; exact h.symm⟩

theorem execRdsp_next {sel : BitVec 2} {idx : BitVec 3} {s t : State} (h : execRdsp sel idx s = .next t) :
    ∃ c, setpointChannel idx = some c ∧ t = s.respond (OutPorts.value (s.sp.get c)) := by
  unfold execRdsp at h
  split at h
  · cases h
  · rename_i v hv
    obtain ⟨c, hc, rfl⟩ := (Setpoints.read_eq_some _ _ _).1 hv
    exact ⟨c, hc, by injection h with h; exact h.symm⟩

theorem execRdtl_next {sel : BitVec 2} {idx : BitVec 3} {s t : State} (h : execRdtl sel idx s = .next t) :
    ∃ v, s.tl.read idx = some v ∧ t = s.respond (OutPorts.value v) := by
  unfold execRdtl at h
  split at h
  · cases h
  · exact ⟨_, ‹_›, by injection h with h; exact h.symm⟩

/-- What a step can do (20_memory.md R38): stay idle, reset, or run one instruction; then the turn is over. -/
theorem step_next {s t : State} (h : step s = .next t) :
    (s.action = .idle ∧ t = s.idle.advance) ∨ (s.action = .reset ∧ t = s.resetRegisters.advance) ∨
      ∃ i u, s.action = .run i ∧ exec i s = .next u ∧ t = u.advance := by
  unfold step at h
  split at h
  · exact .inl ⟨‹_›, by injection h with h; exact h.symm⟩
  · exact .inr (.inl ⟨‹_›, by injection h with h; exact h.symm⟩)
  · rename_i i hi
    cases he : exec i s with
    | next u =>
      rw [he] at h
      exact .inr (.inr ⟨i, u, hi, he, by injection h with h; exact h.symm⟩)
    | fault r => rw [he] at h; cases h
    | refused r => rw [he] at h; cases h
  · cases h

end Sys2Proof.Machine
end

