-- ==== Sys2Proof/Laws/Float.lean ====
section
/-! SUPPORT. Rounding is monotone and exact on binary64 values, and the comparisons order the exact values: the
facts from which the properties of the quantizer follow (40_quantizer.md R71, R73). -/

namespace Sys2Proof.Machine

/-! ### Rounding to an integer -/

theorem roundHalfEven_bounds (n d : Nat) :
    n / d ≤ roundHalfEven n d ∧ roundHalfEven n d ≤ n / d + 1 := by
  unfold roundHalfEven
  split_ifs <;> omega

/-- A quotient that is an integer is not rounded. -/
theorem roundHalfEven_mul (q d : Nat) (hd : 0 < d) : roundHalfEven (q * d) d = q := by
  unfold roundHalfEven
  rw [Nat.mul_mod_left, if_pos (by omega), Nat.mul_div_cancel _ hd]

/-- Rounding to an integer is monotone in the quotient. -/
theorem roundHalfEven_mono {n₁ d₁ n₂ d₂ : Nat} (h₁ : 0 < d₁) (h₂ : 0 < d₂)
    (h : n₁ * d₂ ≤ n₂ * d₁) : roundHalfEven n₁ d₁ ≤ roundHalfEven n₂ d₂ := by
  have hq : n₁ / d₁ ≤ n₂ / d₂ := by
    rw [Nat.le_div_iff_mul_le h₂]
    have : n₁ / d₁ * d₁ ≤ n₁ := Nat.div_mul_le_self _ _
    have : n₁ / d₁ * d₂ * d₁ ≤ n₂ * d₁ := by nlinarith
    exact Nat.le_of_mul_le_mul_right this h₁
  rcases Nat.lt_or_eq_of_le hq with hlt | heq
  · have := (roundHalfEven_bounds n₁ d₁).2
    have := (roundHalfEven_bounds n₂ d₂).1
    omega
  · have e₁ := Nat.div_add_mod n₁ d₁
    have e₂ := Nat.div_add_mod n₂ d₂
    have hr : n₁ % d₁ * d₂ ≤ n₂ % d₂ * d₁ := by
      rw [← e₁, ← e₂, heq] at h
      nlinarith
    have up : d₁ < 2 * (n₁ % d₁) → d₂ < 2 * (n₂ % d₂) := by
      intro hlt
      by_contra hle
      have : 2 * (n₂ % d₂) * d₁ ≤ d₂ * d₁ := Nat.mul_le_mul_right _ (by omega)
      nlinarith
    have down : 2 * (n₂ % d₂) < d₂ → 2 * (n₁ % d₁) < d₁ := by
      intro hlt
      by_contra hle
      have : d₁ * d₂ ≤ 2 * (n₁ % d₁) * d₂ := Nat.mul_le_mul_right _ (by omega)
      nlinarith
    unfold roundHalfEven
    rw [heq]
    split_ifs <;> omega

/-! ### Rounding to binary64 -/

theorem roundExponent_mono {n₁ d₁ n₂ d₂ : Nat} (hq : n₁ / d₁ ≤ n₂ / d₂) :
    roundExponent n₁ d₁ ≤ roundExponent n₂ d₂ := by
  unfold roundExponent
  have : Nat.log2 (n₁ / d₁) ≤ Nat.log2 (n₂ / d₂) := by
    rw [Nat.log2_eq_log_two, Nat.log2_eq_log_two]
    exact Nat.log_mono_right hq
  omega

/-- Above the range of unit spacing the significand has its 53 bits, before and after rounding. -/
theorem roundExponent_bounds (n d : Nat) :
    n / d < 2 ^ 53 * 2 ^ roundExponent n d ∧
      (0 < roundExponent n d → 2 ^ 52 * 2 ^ roundExponent n d ≤ n / d) := by
  unfold roundExponent
  by_cases h0 : n / d = 0
  · rw [h0]; simp
  · have hlo : 2 ^ Nat.log2 (n / d) ≤ n / d := Nat.log2_self_le h0
    have hhi : n / d < 2 ^ (Nat.log2 (n / d) + 1) := Nat.lt_log2_self
    constructor
    · refine lt_of_lt_of_le hhi ?_
      rw [← Nat.pow_add]
      exact Nat.pow_le_pow_right (by omega) (by omega)
    · intro hpos
      rw [← Nat.pow_add]
      refine le_trans (Nat.pow_le_pow_right (by omega) ?_) hlo
      omega

/-- The significand after rounding: at most 2^53, and at least 2^52 above the range of unit spacing. -/
theorem significand_bounds (n d : Nat) :
    roundHalfEven n (d * 2 ^ roundExponent n d) ≤ 2 ^ 53 ∧
      (0 < roundExponent n d → 2 ^ 52 ≤ roundHalfEven n (d * 2 ^ roundExponent n d)) := by
  obtain ⟨hhi, hlo⟩ := roundExponent_bounds n d
  have hdiv : n / (d * 2 ^ roundExponent n d) = n / d / 2 ^ roundExponent n d := (Nat.div_div_eq_div_mul _ _ _).symm
  have hp : 0 < 2 ^ roundExponent n d := Nat.pow_pos (by omega)
  constructor
  · have hlt : n / (d * 2 ^ roundExponent n d) < 2 ^ 53 := by
      rw [hdiv, Nat.div_lt_iff_lt_mul hp]; exact hhi
    have := (roundHalfEven_bounds n (d * 2 ^ roundExponent n d)).2
    omega
  · intro hpos
    refine le_trans ?_ (roundHalfEven_bounds n (d * 2 ^ roundExponent n d)).1
    rw [hdiv, Nat.le_div_iff_mul_le hp]
    exact hlo hpos

/-- Correct rounding is monotone (general knowledge G5 of 93_implementation_defined.md). -/
theorem roundMag_mono {n₁ d₁ n₂ d₂ : Nat} (h₁ : 0 < d₁) (h₂ : 0 < d₂)
    (h : n₁ * d₂ ≤ n₂ * d₁) : roundMag n₁ d₁ ≤ roundMag n₂ d₂ := by
  have hq : n₁ / d₁ ≤ n₂ / d₂ := by
    rw [Nat.le_div_iff_mul_le h₂]
    have : n₁ / d₁ * d₁ ≤ n₁ := Nat.div_mul_le_self _ _
    have : n₁ / d₁ * d₂ * d₁ ≤ n₂ * d₁ := by nlinarith
    exact Nat.le_of_mul_le_mul_right this h₁
  have hk := roundExponent_mono hq
  unfold roundMag
  refine min_le_min_left _ ?_
  rcases Nat.lt_or_eq_of_le hk with hlt | heq
  · have a := (significand_bounds n₁ d₁).1
    have b := (significand_bounds n₂ d₂).2 (by omega)
    omega
  · rw [heq]
    refine Nat.add_le_add_left (roundHalfEven_mono (by positivity) (by positivity) ?_) _
    calc n₁ * (d₂ * 2 ^ roundExponent n₂ d₂) = n₁ * d₂ * 2 ^ roundExponent n₂ d₂ := by ring
      _ ≤ n₂ * d₁ * 2 ^ roundExponent n₂ d₂ := Nat.mul_le_mul_right _ h
      _ = n₂ * (d₁ * 2 ^ roundExponent n₂ d₂) := by ring

theorem roundMag_le_infMag (n d : Nat) : roundMag n d ≤ infMag := Nat.min_le_left _ _

theorem roundMag_lt (n d : Nat) : roundMag n d < 2 ^ 63 :=
  lt_of_le_of_lt (roundMag_le_infMag n d) (by decide)

theorem roundMag_zero (d : Nat) : roundMag 0 d = 0 := by
  unfold roundMag roundExponent roundHalfEven
  simp

/-! ### Magnitude fields and their exact values -/

/-- The exact value of a magnitude field above the subnormals. -/
theorem units_normal {m : Nat} (h : 2 ^ 52 ≤ m) :
    units m = (2 ^ 52 + m % 2 ^ 52) * 2 ^ (m / 2 ^ 52 - 1) := by
  unfold units
  rw [if_neg (by omega)]

/-- The exact value of a magnitude field among the subnormals. -/
theorem units_subnormal {m : Nat} (h : m < 2 ^ 52) : units m = m := by
  unfold units
  rw [if_pos (by omega)]

/-- The magnitude field is the exponent of the spacing times 2^52, plus the significand. -/
theorem units_of_parts {k sig : Nat} (h : sig < 2 ^ 53) (hk : 0 < k → 2 ^ 52 ≤ sig) :
    units (k * 2 ^ 52 + sig) = sig * 2 ^ k := by
  by_cases hs : sig < 2 ^ 52
  · have : k = 0 := by by_contra h0; have := hk (by omega); omega
    subst this
    rw [Nat.zero_mul, Nat.zero_add, Nat.pow_zero, Nat.mul_one, units_subnormal hs]
  · rw [units_normal (by omega)]
    have hd : (k * 2 ^ 52 + sig) / 2 ^ 52 = k + 1 := by omega
    have hm : (k * 2 ^ 52 + sig) % 2 ^ 52 = sig - 2 ^ 52 := by omega
    rw [hd, hm, Nat.add_sub_cancel, show 2 ^ 52 + (sig - 2 ^ 52) = sig by omega]

/-- Every magnitude field splits into a spacing exponent and a significand. -/
theorem exists_parts (m : Nat) :
    ∃ k sig, m = k * 2 ^ 52 + sig ∧ sig < 2 ^ 53 ∧ (0 < k → 2 ^ 52 ≤ sig) := by
  by_cases h : m < 2 ^ 52
  · exact ⟨0, m, by omega, by omega, by omega⟩
  · exact ⟨m / 2 ^ 52 - 1, m - (m / 2 ^ 52 - 1) * 2 ^ 52, by omega, by omega, by omega⟩

/-- The order of magnitude fields is the order of the exact values. -/
theorem units_strictMono : StrictMono units := by
  refine strictMono_nat_of_lt_succ ?_
  intro m
  obtain ⟨k, sig, rfl, h, hk⟩ := exists_parts m
  rw [units_of_parts h hk]
  by_cases hs : sig + 1 < 2 ^ 53
  · rw [show k * 2 ^ 52 + sig + 1 = k * 2 ^ 52 + (sig + 1) by ring,
      units_of_parts hs (fun h0 => by have := hk h0; omega)]
    exact Nat.mul_lt_mul_of_pos_right (by omega) (by positivity)
  · have e : sig = 2 ^ 53 - 1 := by omega
    subst e
    rw [show k * 2 ^ 52 + (2 ^ 53 - 1) + 1 = (k + 1) * 2 ^ 52 + 2 ^ 52 by omega,
      units_of_parts (by norm_num) (fun _ => le_refl _), Nat.pow_succ]
    have : 0 < 2 ^ k := by positivity
    omega

theorem units_le {a b : Nat} : units a ≤ units b ↔ a ≤ b := units_strictMono.le_iff_le

theorem units_lt {a b : Nat} : units a < units b ↔ a < b := units_strictMono.lt_iff_lt

theorem units_inj {a b : Nat} : units a = units b ↔ a = b := units_strictMono.injective.eq_iff

theorem units_zero : units 0 = 0 := rfl

/-- A binary64 value is not rounded. -/
theorem roundMag_units {m d : Nat} (hd : 0 < d) (hm : m ≤ infMag) : roundMag (units m * d) d = m := by
  obtain ⟨k, sig, rfl, h, hk⟩ := exists_parts m
  rw [units_of_parts h hk]
  have hq : sig * 2 ^ k * d / d = sig * 2 ^ k := Nat.mul_div_cancel _ hd
  have hexp : roundExponent (sig * 2 ^ k * d) d = k := by
    unfold roundExponent
    rw [hq]
    by_cases h0 : sig = 0
    · subst h0
      have : k = 0 := by by_contra hk0; have := hk (by omega); omega
      simp [this]
    · have hne : sig * 2 ^ k ≠ 0 := by positivity
      by_cases hk0 : k = 0
      · subst hk0
        have : Nat.log2 (sig * 2 ^ 0) < 53 := (Nat.log2_lt hne).2 (by simpa using h)
        omega
      · have hs := hk (by omega)
        have : Nat.log2 (sig * 2 ^ k) = 52 + k := by
          rw [Nat.log2_eq_log_two]
          refine Nat.log_eq_of_pow_le_of_lt_pow ?_ ?_
          · rw [Nat.pow_add]; exact Nat.mul_le_mul_right _ hs
          · rw [show 52 + k + 1 = 53 + k by ring, Nat.pow_add]
            exact Nat.mul_lt_mul_of_pos_right h (by positivity)
        omega
  unfold roundMag
  rw [hexp, show sig * 2 ^ k * d = sig * (d * 2 ^ k) by ring, roundHalfEven_mul _ _ (by positivity)]
  exact Nat.min_eq_right hm

/-! ### Patterns -/

theorem fmag_lt (x : F64) : fmag x < 2 ^ 63 := Nat.mod_lt _ (by norm_num)

theorem fmag_ofMag {neg : Bool} {m : Nat} (h : m < 2 ^ 63) : fmag (ofMag neg m) = m := by
  unfold fmag ofMag
  rw [BitVec.toNat_ofNat]
  cases neg <;> simp <;> omega

theorem fsign_ofMag {neg : Bool} {m : Nat} (h : m < 2 ^ 63) : fsign (ofMag neg m) = neg := by
  unfold fsign ofMag
  rw [BitVec.msb_eq_decide, BitVec.toNat_ofNat]
  cases neg <;> simp <;> omega

/-- A pattern is its sign and its magnitude field. -/
theorem ofMag_fmag (x : F64) : ofMag (fsign x) (fmag x) = x := by
  apply BitVec.eq_of_toNat_eq
  unfold fsign fmag ofMag
  rw [BitVec.msb_eq_decide, BitVec.toNat_ofNat]
  have := x.isLt
  by_cases h : 2 ^ 63 ≤ x.toNat
  · rw [if_pos (by simpa using h)]; omega
  · rw [if_neg (by simpa using h)]; omega

theorem fval_ofMag {neg : Bool} {m : Nat} (h : m < 2 ^ 63) :
    fval (ofMag neg m) = if neg then -(units m : Int) else (units m : Int) := by
  unfold fval
  rw [fsign_ofMag h, fmag_ofMag h]

theorem fkey_ofMag {neg : Bool} {m : Nat} (h : m < 2 ^ 63) :
    fkey (ofMag neg m) = if neg then -(m : Int) else (m : Int) := by
  unfold fkey
  rw [fsign_ofMag h, fmag_ofMag h]

/-- The comparison key orders patterns as their exact values do. -/
theorem fkey_lt_iff (a b : F64) : fkey a < fkey b ↔ fval a < fval b := by
  unfold fkey fval
  have hz : ∀ m : Nat, m = 0 ↔ units m = 0 := fun m => ⟨fun h => h ▸ units_zero, fun h => units_inj.1 (h.trans units_zero.symm)⟩
  have hlt := @units_lt (fmag a) (fmag b)
  have hgt := @units_lt (fmag b) (fmag a)
  have ha := hz (fmag a)
  have hb := hz (fmag b)
  cases fsign a <;> cases fsign b <;> simp <;> omega

/-- `flt` on patterns that are no NaN compares the exact values. -/
theorem flt_iff {a b : F64} (ha : isNaN a = false) (hb : isNaN b = false) :
    flt a b = true ↔ fval a < fval b := by
  unfold flt
  simp [ha, hb, fkey_lt_iff]

/-- A finite pattern is no NaN. -/
theorem isNaN_of_isFinite {x : F64} (h : isFinite x = true) : isNaN x = false := by
  unfold isFinite at h
  unfold isNaN
  simp at *
  omega

end Sys2Proof.Machine
end

