-- ==== Sys2Proof/Laws/PerInstr.lean ====
section
/-! SUPPORT. Statements made per instruction. The family `OpcodeRow`: the encoding of every instruction carries its
row of spec/opcode_table.json, the match under the mask for a request (30_encoding.md R56), the pattern for a
frame (R47, R50, R53). -/

namespace Sys2Proof.Laws

/-- The request's code is `code` under `mask`, and it is presented as a request. -/
def carriesRequest (i : Instr) (code mask : BitVec 6) : Prop :=
  ∃ p : InPorts, encode i = .request p ∧ p.reqValid = true ∧ p.rst = false ∧ p.reqCode &&& mask = code

/-- The row of spec/opcode_table.json that an instruction's encoding carries. -/
def OpcodeRow.Statement : Instr → Prop
  | i@(.qenc ..) => carriesRequest i 0x04#6 0x3C#6
  | i@(.qdec ..) => carriesRequest i 0x08#6 0x3C#6
  | i@(.pack ..) => carriesRequest i 0x0C#6 0x3C#6
  | i@(.unpack ..) => carriesRequest i 0x10#6 0x3C#6
  | i@(.wrsp ..) => carriesRequest i 0x14#6 0x3C#6
  | i@(.rdsp ..) => carriesRequest i 0x18#6 0x3C#6
  | i@(.rdtl ..) => carriesRequest i 0x1C#6 0x3C#6
  | i@(.txEnter ..) => carriesRequest i 0x20#6 0x3F#6
  | i@(.txExit ..) => carriesRequest i 0x21#6 0x3F#6
  | i@(.txZero ..) => carriesRequest i 0x22#6 0x3F#6
  | i@(.txCmd ..) => carriesRequest i 0x23#6 0x3F#6
  | i@(.rx ..) => carriesRequest i 0x24#6 0x3C#6
  | i@(.disc ..) => carriesRequest i 0x28#6 0x3C#6
  | .frameCmd pos vel kp kd trq =>
      ∃ w, encode (.frameCmd pos vel kp kd trq) = .frame .command w ∧ w.extractLsb' 48 16 = pos
  | .frameReply id pos vel trq ignored =>
      ∃ w, encode (.frameReply id pos vel trq ignored) = .frame .reply w ∧ w.extractLsb' 56 8 = id
  | .frameEnter => encode .frameEnter = .frame .control 0xFFFFFFFFFFFFFFFC#64
  | .frameExit => encode .frameExit = .frame .control 0xFFFFFFFFFFFFFFFD#64
  | .frameZero => encode .frameZero = .frame .control 0xFFFFFFFFFFFFFFFE#64

/-- Masking a request code with 0x3C drops `sel` (30_encoding.md R56). -/
theorem requestCode_mask (op : BitVec 4) (sel : BitVec 2) : requestCode op sel &&& 0x3C#6 = requestCode op 0#2 := by
  revert op sel; decide

theorem OpcodeRow.qenc (sel : BitVec 2) (value min max : F64) (bits : BitVec 5) :
    OpcodeRow.Statement (.qenc sel value min max bits) := ⟨_, rfl, rfl, rfl, requestCode_mask 1#4 sel⟩
theorem OpcodeRow.qdec (sel : BitVec 2) (raw : BitVec 16) (min max : F64) (bits : BitVec 5) :
    OpcodeRow.Statement (.qdec sel raw min max bits) := ⟨_, rfl, rfl, rfl, requestCode_mask 2#4 sel⟩
theorem OpcodeRow.pack (sel : BitVec 2) (p v kp kd t : F64) :
    OpcodeRow.Statement (.pack sel p v kp kd t) := ⟨_, rfl, rfl, rfl, requestCode_mask 3#4 sel⟩
theorem OpcodeRow.unpack (sel : BitVec 2) (frame : Frame) (len : BitVec 4) :
    OpcodeRow.Statement (.unpack sel frame len) := ⟨_, rfl, rfl, rfl, requestCode_mask 4#4 sel⟩
theorem OpcodeRow.wrsp (sel : BitVec 2) (idx : BitVec 3) (value : F64) :
    OpcodeRow.Statement (.wrsp sel idx value) := ⟨_, rfl, rfl, rfl, requestCode_mask 5#4 sel⟩
theorem OpcodeRow.rdsp (sel : BitVec 2) (idx : BitVec 3) :
    OpcodeRow.Statement (.rdsp sel idx) := ⟨_, rfl, rfl, rfl, requestCode_mask 6#4 sel⟩
theorem OpcodeRow.rdtl (sel : BitVec 2) (idx : BitVec 3) :
    OpcodeRow.Statement (.rdtl sel idx) := ⟨_, rfl, rfl, rfl, requestCode_mask 7#4 sel⟩
theorem OpcodeRow.txEnter (busOk : Bool) :
    OpcodeRow.Statement (.txEnter busOk) :=
  ⟨_, rfl, rfl, rfl, (by decide : requestCode 8#4 0#2 &&& 0x3F#6 = 0x20#6)⟩
theorem OpcodeRow.txExit (busOk : Bool) :
    OpcodeRow.Statement (.txExit busOk) :=
  ⟨_, rfl, rfl, rfl, (by decide : requestCode 8#4 1#2 &&& 0x3F#6 = 0x21#6)⟩
theorem OpcodeRow.txZero (busOk : Bool) :
    OpcodeRow.Statement (.txZero busOk) :=
  ⟨_, rfl, rfl, rfl, (by decide : requestCode 8#4 2#2 &&& 0x3F#6 = 0x22#6)⟩
theorem OpcodeRow.txCmd (busOk : Bool) :
    OpcodeRow.Statement (.txCmd busOk) :=
  ⟨_, rfl, rfl, rfl, (by decide : requestCode 8#4 3#2 &&& 0x3F#6 = 0x23#6)⟩
theorem OpcodeRow.rx (sel : BitVec 2) (frame : Frame) (len : BitVec 4) :
    OpcodeRow.Statement (.rx sel frame len) := ⟨_, rfl, rfl, rfl, requestCode_mask 9#4 sel⟩
theorem OpcodeRow.disc (sel : BitVec 2) :
    OpcodeRow.Statement (.disc sel) := ⟨_, rfl, rfl, rfl, requestCode_mask 10#4 sel⟩
theorem OpcodeRow.frameCmd (pos : BitVec 16) (vel kp kd trq : BitVec 12) :
    OpcodeRow.Statement (.frameCmd pos vel kp kd trq) := by
  refine ⟨_, rfl, ?_⟩
  rw [extract_append_high _ _ _ _ (by omega), extract_append_high _ _ _ _ (by omega),
    extract_append_high _ _ _ _ (by omega), extract_append_high _ _ _ _ (by omega)]
  exact extract_all _
theorem OpcodeRow.frameReply (id : Byte) (pos : BitVec 16) (vel trq : BitVec 12) (ignored : BitVec 16) :
    OpcodeRow.Statement (.frameReply id pos vel trq ignored) := by
  refine ⟨_, rfl, ?_⟩
  rw [extract_append_high _ _ _ _ (by omega), extract_append_high _ _ _ _ (by omega),
    extract_append_high _ _ _ _ (by omega), extract_append_high _ _ _ _ (by omega)]
  exact extract_all _
theorem OpcodeRow.frameEnter : OpcodeRow.Statement .frameEnter := by
  show encode .frameEnter = _
  decide
theorem OpcodeRow.frameExit : OpcodeRow.Statement .frameExit := by
  show encode .frameExit = _
  decide
theorem OpcodeRow.frameZero : OpcodeRow.Statement .frameZero := by
  show encode .frameZero = _
  decide

end Sys2Proof.Laws
end

