-- ==== Sys2Proof/Tests/Slice0.lean ====
section
/-! SUPPORT. The model's own tests: the smoke tests of `WellFormed`, each constructor's decoding from a word written
out from spec/30_encoding.md, at most two small tests per instruction with the results 95_test_vectors.md gives,
and for each statement with hypotheses a state and operands that meet them. -/

-- The kernel evaluates these theorems one after another: side by side they reserve a large stack each.
set_option Elab.async false

namespace Sys2Proof.Tests

open Sys2Proof.Machine

/-! ### Helpers -/

/-- The state an outcome goes on in. -/
def nextOf : Host.Outcome State Fault Refusal → Option State
  | .next s => some s
  | .fault _ => none
  | .refused _ => none

/-- The refusal an outcome ends in. -/
def refusalOf : Host.Outcome State Fault Refusal → Option Refusal
  | .next _ => none
  | .fault _ => none
  | .refused r => some r

/-- The outputs after an outcome. -/
def outOf (o : Host.Outcome State Fault Refusal) : Option OutPorts := (nextOf o).map State.out

/-- The telemetry after an outcome. -/
def tlOf (o : Host.Outcome State Fault Refusal) : Option Telemetry := (nextOf o).map State.tl

/-- The setpoints after an outcome. -/
def spOf (o : Host.Outcome State Fault Refusal) : Option Setpoints := (nextOf o).map State.sp

/-- SP = (5.0, 2.0, 100.0, 2.0, 10.0), TL = (1.0, 2.0, 3.0): the state of the vectors V-T5 and V-R8. -/
def demo : State :=
  { State.reset with
    sp := ⟨0x4014000000000000#64, 0x4000000000000000#64, 0x4059000000000000#64, 0x4000000000000000#64,
      0x4024000000000000#64⟩
    tl := ⟨0x3FF0000000000000#64, 0x4000000000000000#64, 0x4008000000000000#64⟩ }

/-- `demo` with one stimulus waiting. -/
def demoWith (a : Agent) (st : Stimulus) : State := { demo with env := demo.env.present a st }

/-! ### WellFormed: an ill-formed term for each check -/

theorem test_wf_refuses_qenc_reversed_range :
    WellFormed (.qenc 0 0 0x4029000000000000#64 0xC029000000000000#64 16#5) = false := by decide +kernel
theorem test_wf_refuses_qdec_infinite_bound :
    WellFormed (.qdec 0 1 0 0x7FF0000000000000#64 12#5) = false := by decide +kernel
theorem test_wf_refuses_qdec_overflowing_span :
    WellFormed (.qdec 0 1 0 0x7FE0000000000000#64 12#5) = false := by decide +kernel
theorem test_wf_refuses_wrsp_index_5 : WellFormed (.wrsp 0 5#3 0) = false := by decide
theorem test_wf_refuses_rdsp_index_7 : WellFormed (.rdsp 0 7#3) = false := by decide
theorem test_wf_refuses_rdtl_index_3 : WellFormed (.rdtl 0 3#3) = false := by decide
theorem test_wf_takes_the_ranges_in_use :
    WellFormed (.qenc 0 0 0xC029000000000000#64 0x4029000000000000#64 16#5) = true := by decide +kernel

/-! ### Decoding, each constructor from a word written out (30_encoding.md R56, R47, R50, R53) -/

theorem test_decode_qenc :
    decode (.request { reqValid := true, reqCode := 0b000111#6, fIn := 1, fMin := 2, fMax := 3, bits := 12 }) =
      .instr (.qenc 3#2 1 2 3 12) := by decide
theorem test_decode_qdec :
    decode (.request { reqValid := true, reqCode := 0b001000#6, rawIn := 7, fMin := 2, fMax := 3, bits := 16 }) =
      .instr (.qdec 0#2 7 2 3 16) := by decide
theorem test_decode_pack :
    decode (.request { reqValid := true, reqCode := 0b001100#6, pIn := 1, vIn := 2, kpIn := 3, kdIn := 4,
                       tIn := 5 }) = .instr (.pack 0#2 1 2 3 4 5) := by decide
theorem test_decode_unpack :
    decode (.request { reqValid := true, reqCode := 0b010000#6, frameIn := 9, len := 8 }) =
      .instr (.unpack 0#2 9 8) := by decide
theorem test_decode_wrsp :
    decode (.request { reqValid := true, reqCode := 0b010101#6, idx := 3, fIn := 9 }) =
      .instr (.wrsp 1#2 3 9) := by decide
theorem test_decode_rdsp :
    decode (.request { reqValid := true, reqCode := 0b011000#6, idx := 4 }) = .instr (.rdsp 0#2 4) := by decide
theorem test_decode_rdtl :
    decode (.request { reqValid := true, reqCode := 0b011110#6, idx := 2 }) = .instr (.rdtl 2#2 2) := by decide
theorem test_decode_txEnter :
    decode (.request { reqValid := true, reqCode := 0b100000#6, busOk := true }) = .instr (.txEnter true) := by
  decide
theorem test_decode_txExit :
    decode (.request { reqValid := true, reqCode := 0b100001#6 }) = .instr (.txExit false) := by decide
theorem test_decode_txZero :
    decode (.request { reqValid := true, reqCode := 0b100010#6, busOk := true }) = .instr (.txZero true) := by
  decide
theorem test_decode_txCmd :
    decode (.request { reqValid := true, reqCode := 0b100011#6, busOk := true }) = .instr (.txCmd true) := by
  decide
theorem test_decode_rx :
    decode (.request { reqValid := true, reqCode := 0b100100#6, frameIn := 9, len := 6 }) =
      .instr (.rx 0#2 9 6) := by decide
theorem test_decode_disc :
    decode (.request { reqValid := true, reqCode := 0b101000#6 }) = .instr (.disc 0#2) := by decide
theorem test_decode_frameCmd :
    decode (.frame .command 0xB3329FF33366688D#64) =
      .instr (.frameCmd 0xB332#16 0x9FF#12 0x333#12 0x666#12 0x88D#12) := by decide
theorem test_decode_frameReply :
    decode (.frame .reply 0x01123456789ABCDE#64) =
      .instr (.frameReply 0x01#8 0x1234#16 0x567#12 0x89A#12 0xBCDE#16) := by decide
theorem test_decode_frameEnter : decode (.frame .control 0xFFFFFFFFFFFFFFFC#64) = .instr .frameEnter := by decide
theorem test_decode_frameExit : decode (.frame .control 0xFFFFFFFFFFFFFFFD#64) = .instr .frameExit := by decide
theorem test_decode_frameZero : decode (.frame .control 0xFFFFFFFFFFFFFFFE#64) = .instr .frameZero := by decide
theorem test_decode_reserved_2C :
    decode (.request { reqValid := true, reqCode := 0x2C#6 }) = .reservedRequest 0x2C#6 := by decide
theorem test_decode_control_FF :
    decode (.frame .control 0xFFFFFFFFFFFFFFFF#64) = .notControlFrame 0xFFFFFFFFFFFFFFFF#64 := by decide

/-! ### One step each, against 95_test_vectors.md -/

/-- V-E5. -/
theorem test_qenc_truncates :
    outOf (exec (.qenc 0 0x4014000000000000#64 0xC029000000000000#64 0x4029000000000000#64 16#5) demo) =
      some { status := some .ok, rawOut := some 0xB332#16 } := by decide +kernel
/-- V-E64: the float rule gives 4095 where the exact floor is 4094. -/
theorem test_qenc_rounds_subtraction :
    qencRaw 0x4061FFFFFFFFFFFF#64 0xC062000000000000#64 0x4062000000000000#64 12#5 = 4095#16 := by
  decide +kernel
/-- V-D5. -/
theorem test_qdec_one :
    outOf (exec (.qdec 0 1#16 0xC029000000000000#64 0x4029000000000000#64 16#5) demo) =
      some { status := some .ok, fOut := some 0xC028FFCDFFCDFFCE#64 } := by decide +kernel
/-- V-D28: a raw above N is not masked. -/
theorem test_qdec_above_n :
    qdecValue 4096#16 0xC020000000000000#64 0x4020000000000000#64 12#5 = 0x4020020020020020#64 := by
  decide +kernel
/-- V-P9. -/
theorem test_pack_p9 :
    packFrame 0xC00921F9F01B866E#64 0x3FE0000000000000#64 0x406F400000000000#64 0x4004000000000000#64
      0xC052000000000000#64 = 0x5FD487F7FF7FF3FF#64 := by decide +kernel
/-- V-P13: a NaN position is raw 0. -/
theorem test_pack_nan :
    outOf (exec (.pack 0 0x7FF8000000000000#64 0x4000000000000000#64 0x4059000000000000#64
      0x4000000000000000#64 0x4024000000000000#64) demo) =
      some { status := some .ok, frameOut := some 0x00009FF33366688D#64 } := by decide +kernel
/-- V-U10. -/
theorem test_unpack_len_6 :
    outOf (exec (.unpack 0 0x01123456789ABCDE#64 6#4) demo) =
      some { status := some .ok, idOut := some 0x01#8, pOut := some 0xC02571D471D471D4#64,
             vOut := some 0xC004C54C54C54C54#64, tOut := some 0x4025BB5BB5BB5BB0#64 } := by decide +kernel
/-- V-U12. -/
theorem test_unpack_len_5 :
    outOf (exec (.unpack 0 0x01123456789ABCDE#64 5#4) demo) = some { status := some .decodeTooShort } := by
  decide +kernel
/-- V-R4. -/
theorem test_wrsp_kp :
    spOf (exec (.wrsp 0 2#3 0x4059000000000000#64) State.reset) =
      some { Setpoints.defaults with kp := 0x4059000000000000#64 } := by decide
/-- V-R12. -/
theorem test_wrsp_index_5 : refusalOf (exec (.wrsp 0 5#3 0) demo) = some (.noSuchSetpoint 5#3) := by decide
/-- V-R1. -/
theorem test_rdsp_kd :
    outOf (exec (.rdsp 0 3#3) State.reset) = some { status := some .ok, fOut := some 0x3FE0000000000000#64 } := by
  decide
/-- V-R8's telemetry, read at index 2. -/
theorem test_rdtl_torque :
    outOf (exec (.rdtl 0 2#3) demo) = some { status := some .ok, fOut := some 0x4008000000000000#64 } := by decide
/-- V-R12. -/
theorem test_rdtl_index_3 : refusalOf (exec (.rdtl 0 3#3) demo) = some (.noSuchTelemetry 3#3) := by decide
/-- V-T7. -/
theorem test_txEnter_refused_by_bus :
    outOf (exec (.txEnter false) demo) =
      some { status := some .transportError, txValid := true, txAddr := some 0x017#11, txDlc := some 8#4,
             txData := some 0xFFFFFFFFFFFFFFFC#64 } := by decide
/-- V-T2. -/
theorem test_txExit :
    (outOf (exec (.txExit true) demo)).bind OutPorts.txData = some 0xFFFFFFFFFFFFFFFD#64 := by decide
/-- V-T3. -/
theorem test_txZero :
    (outOf (exec (.txZero true) demo)).bind OutPorts.txData = some 0xFFFFFFFFFFFFFFFE#64 := by decide
/-- V-T5. -/
theorem test_txCmd_golden :
    (outOf (exec (.txCmd true) demo)).bind OutPorts.txData = some 0xB3329FF33366688D#64 := by decide +kernel
/-- V-T4. -/
theorem test_txCmd_after_reset :
    (outOf (exec (.txCmd true) State.reset)).bind OutPorts.txData = some 0x7FFF7FF0001997FF#64 := by
  decide +kernel
/-- V-R9. -/
theorem test_rx_publishes :
    tlOf (exec (.rx 0 0x17B3329FF88D2500#64 8#4) demo) =
      some ⟨0x4013FFCDFFCDFFCC#64, 0x3FFFF9FF9FF9FFA0#64, 0x4023E73E73E73E70#64⟩ := by decide +kernel
/-- V-R8. -/
theorem test_rx_too_short : tlOf (exec (.rx 0 0x01123456789ABCDE#64 5#4) demo) = some demo.tl := by decide
/-- V-R10. -/
theorem test_disc : tlOf (exec (.disc 0) demo) = some ⟨0, 0, 0⟩ ∧ spOf (exec (.disc 0) demo) = some demo.sp := by
  decide
/-- V-U15: a command frame misread as a reply. -/
theorem test_frameCmd_read_as_reply :
    tlOf (exec (.frameCmd 0xB332#16 0x9FF#12 0x333#12 0x666#12 0x88D#12) demo) =
      some ⟨0xC01E39D039D039D0#64, 0x401CCFCCFCCFCCFC#64, 0xC054B40B40B40B40#64⟩ := by decide +kernel
/-- V-U16. -/
theorem test_frameReply :
    tlOf (exec (.frameReply 0x17#8 1#16 1#12 1#12 0#16) demo) =
      some ⟨0xC028FFCDFFCDFFCE#64, 0xC01FFBFFBFFBFFC0#64, 0xC061FDBFDBFDBFDC#64⟩ := by decide +kernel
/-- V-U6. -/
theorem test_frameEnter :
    tlOf (exec .frameEnter demo) = some ⟨0x4029000000000000#64, 0x4020000000000000#64, 0x4062000000000000#64⟩ := by
  decide +kernel
theorem test_frameExit_id : (outOf (exec .frameExit demo)).bind OutPorts.idOut = some 0xFF#8 := by decide
theorem test_frameZero_id : (outOf (exec .frameZero demo)).bind OutPorts.idOut = some 0xFF#8 := by decide

/-- One step takes the first stimulus of the agent whose turn it is, here the second program of
95_test_vectors.md, step 2 of the receive path: POLL waits while HOST is served. -/
theorem test_step_takes_one_turn :
    (nextOf (step { demo with env :=
      { Environment.empty with
        host := [.request { reqValid := true, reqCode := 0x28#6 }]
        poll := [.frame .control 0xFFFFFFFFFFFFFFFC#64]
        turns := [.host, .poll] } })).map State.env =
      some { Environment.empty with poll := [.frame .control 0xFFFFFFFFFFFFFFFC#64], turns := [.poll] } := by
  decide
theorem test_step_reset_input :
    (nextOf (step (demoWith .host (.request { rst := true, reqValid := true, reqCode := 0x23#6 })))).map
      (fun s => (s.sp, s.tl, s.out.txValid)) = some (Setpoints.defaults, Telemetry.defaults, false) := by decide
theorem test_step_runs_fetch_word :
    (nextOf (step (State.reset.withFetchWord 8 0x22))).map (fun s => s.out.txData) =
      some (some 0xFFFFFFFFFFFFFFFE#64) := by decide

/-! ### For each statement with hypotheses, a state and operands that meet them -/

theorem witness_EncodeDecodeFrames :
    decode (.frame .reply 0x17FFFFFFFFFFABCD#64) =
      .instr (.frameReply 0x17#8 0xFFFF#16 0xFFF#12 0xFFF#12 0xABCD#16) := by decide
/-- The codes where the clauses meet: 0x03 and 0x04, 0x2B and 0x2C. -/
theorem witness_ReservedRequestCodes :
    decode (.request { reqCode := 0x03#6 }) = .reservedRequest 0x03#6 ∧
    decode (.request { reqCode := 0x04#6 }) = .instr (.qenc 0 0 0 0 0) ∧
    decode (.request { reqCode := 0x2B#6 }) = .instr (.disc 3) ∧
    decode (.request { reqCode := 0x2C#6 }) = .reservedRequest 0x2C#6 := by decide
theorem witness_OnlyThreeControlFrames :
    decode (.frame .control 0xFFFFFFFFFFFFFFFE#64) = .instr .frameZero ∧
    decode (.frame .control 0xFFFFFFFFFFFFFFFB#64) = .notControlFrame 0xFFFFFFFFFFFFFFFB#64 := by decide
/-- Both ends of the operation codes other than 8. -/
theorem witness_SelIgnoredOutsideTx :
    (opOf 0x07#6 ≠ 8#4 ∧ 1 ≤ (opOf 0x07#6).toNat ∧ (opOf 0x07#6).toNat ≤ 10) ∧
    (opOf 0x2A#6 ≠ 8#4 ∧ 1 ≤ (opOf 0x2A#6).toNat ∧ (opOf 0x2A#6).toNat ≤ 10) := by decide
theorem witness_StepRunsDecodedInstruction :
    presents (demoWith .host (.request { reqValid := true, reqCode := 0x28#6 }))
        (.request { reqValid := true, reqCode := 0x28#6 }) ∧
      decode (.request { reqValid := true, reqCode := 0x28#6 }) = .instr (.disc 0) ∧
      (∃ t, exec (.disc 0) demo = .next t) ∧ exec (.rdtl 0 7#3) demo = .refused (.noSuchTelemetry 7#3) := by
  refine ⟨⟨rfl, ?_⟩, by decide, ⟨_, rfl⟩, rfl⟩
  intro p h
  cases h
  exact ⟨rfl, rfl⟩
theorem witness_FetchWordRunsNext :
    decodeTableWord 8 0x24 = some (.rx 0 0 0) ∧ decodeTableWord 64 0xFFFFFFFFFFFFFFFC = some .frameEnter ∧
      (∃ t, exec (.rx 0 0 0) (State.reset.withFetchWord 8 0x24) = .next t) := by
  exact ⟨by decide, by decide, ⟨_, rfl⟩⟩
theorem witness_AgentsOrderKept :
    ∃ t, step (demoWith .poll (.frame .reply 0x17B3329FF88D2500#64)) = .next t := ⟨_, rfl⟩
theorem witness_IdleDoesNothing :
    demo.env.current = none ∧
    (demoWith .host (.request {})).env.current = some (.request {}) ∧
    ∃ t, step (demoWith .host (.request { rst := true })) = .next t ∧ t.sp ≠ demo.sp :=
  ⟨rfl, rfl, _, rfl, by decide⟩
/-- `req_valid = 0`, `rst` over a reserved code, and an operation inside the contract all answer a next state. -/
theorem witness_StepCompletesExactly :
    (∃ t, step demo = .next t) ∧ (∃ t, step (demoWith .host (.request { reqCode := 0x2C#6 })) = .next t) ∧
      (∃ t, step (demoWith .host (.request { rst := true, reqValid := true, reqCode := 0x2C#6 })) = .next t) ∧
      ∃ t, step (demoWith .host (.request { reqValid := true, reqCode := 0x18#6, idx := 4#3 })) = .next t :=
  ⟨⟨_, rfl⟩, ⟨_, rfl⟩, ⟨_, rfl⟩, _, rfl⟩
/-- Each ground of a refusal, met by a step. -/
theorem witness_RefusesOnlyWhatTheSpecLeavesOut :
    refusalOf (step (demoWith .host (.request { reqValid := true, reqCode := 0x2C#6 }))) =
      some (.reservedRequest 0x2C#6) ∧
    refusalOf (step (demoWith .poll (.frame .control 0xFFFFFFFFFFFFFFFF#64))) =
      some (.notControlFrame 0xFFFFFFFFFFFFFFFF#64) ∧
    refusalOf (step (demoWith .host (.request { reqValid := true, reqCode := 0x18#6, idx := 5#3 }))) =
      some (.noSuchSetpoint 5#3) := by decide
/-- A tie rounded to even: 2^54 + 2 units lie midway between two values. -/
theorem witness_RoundNearestEven :
    0 < 1 ∧ roundMag (2 ^ 54 + 2) 1 < infMag ∧ units (roundMag (2 ^ 54 + 2) 1) = 2 ^ 54 ∧
      roundMag (2 ^ 54 + 2) 1 + 1 < infMag ∧ units (roundMag (2 ^ 54 + 2) 1 + 1) = 2 ^ 54 + 4 := by decide +kernel
/-- The overflow bound, and one unit below it. -/
theorem witness_RoundOverflow :
    roundMag ((2 ^ 54 - 1) * 2 ^ 2044) 1 = infMag ∧ roundMag ((2 ^ 54 - 1) * 2 ^ 2044 - 1) 1 + 1 = infMag := by
  decide +kernel
/-- 2^53 + 1 lies midway between 2^53 and 2^53 + 2: the even one is the sum. -/
theorem witness_ArithmeticTie :
    let a := 0x4340000000000000#64
    let b := 0x3FF0000000000000#64
    let c := 0x4340000000000001#64
    fadd a b = a ∧ isFinite c = true ∧ fmag c ≠ fmag a ∧
      (fval c - (fval a + fval b)).natAbs = (fval a - (fval a + fval b)).natAbs := by decide +kernel
/-- 5.0 and -12.5 with every result finite. -/
theorem witness_ArithmeticCorrectlyRounded :
    let a := 0x4014000000000000#64
    let b := 0xC029000000000000#64
    isFinite a = true ∧ isFinite b = true ∧ isFinite (fadd a b) = true ∧ isFinite (fsub a b) = true ∧
      isFinite (fmul a b) = true ∧ isFinite (fdiv a b) = true ∧ fval b ≠ 0 := by decide +kernel
/-- The greatest integer of the first clause, and negative zero for the second. -/
theorem witness_ConversionsExact :
    2 ^ 53 - 1 < 2 ^ 53 ∧ u2f (2 ^ 53 - 1) = 0x433FFFFFFFFFFFFF#64 ∧
      isFinite 0x8000000000000000#64 = true ∧ 0 ≤ fval 0x8000000000000000#64 ∧
      ftrunc 0x8000000000000000#64 = 0 := by decide +kernel

/-- The position row keeps the contract at 16 bits, the torque row at 12. -/
theorem rows_keep_the_contract (c : Channel) (bits : BitVec 5) :
    rangeContract (Config.range c).min (Config.range c).max bits := by
  intro n h
  rcases h with ⟨-, rfl⟩ | ⟨-, rfl⟩ <;> cases c <;> decide +kernel

theorem witness_QencResult :
    supportedWidth 12#5 4095 ∧ supportedWidth 16#5 65535 ∧
      rangeContract 0xC029000000000000#64 0x4029000000000000#64 16#5 :=
  ⟨.inl ⟨rfl, rfl⟩, .inr ⟨rfl, rfl⟩, rows_keep_the_contract .position 16#5⟩
theorem witness_QdecResult :
    supportedWidth 12#5 4095 ∧ rangeContract 0xC062000000000000#64 0x4062000000000000#64 12#5 :=
  ⟨.inl ⟨rfl, rfl⟩, rows_keep_the_contract .torque 12#5⟩
theorem witness_UnsupportedWidthsGiveZero :
    (11#5 ≠ 12#5 ∧ 11#5 ≠ 16#5) ∧ (13#5 ≠ 12#5 ∧ 13#5 ≠ 16#5) ∧ (17#5 ≠ 12#5 ∧ 17#5 ≠ 16#5) := by decide
/-- Equal ends are outside the contract. -/
theorem witness_RangeOutsideContractRefused :
    ¬ rangeContract 0x4029000000000000#64 0x4029000000000000#64 16#5 := by
  intro h
  exact absurd (h 65535 (.inr ⟨rfl, rfl⟩)).2.2.1 (by decide +kernel)
/-- The values next to the ends, and the infinities. -/
theorem witness_QencSaturates :
    rangeContract 0xC029000000000000#64 0x4029000000000000#64 16#5 ∧
      flt 0xC029000000000001#64 0xC029000000000000#64 = true ∧ flt 0xFFF0000000000000#64 0xC029000000000000#64 = true ∧
      fgt 0x4029000000000001#64 0x4029000000000000#64 = true ∧
      fgt 0x7FF0000000000000#64 0x4029000000000000#64 = true :=
  ⟨rows_keep_the_contract .position 16#5, by decide +kernel, by decide +kernel, by decide +kernel, by decide +kernel⟩
theorem witness_QencMonotone :
    rangeContract 0xC029000000000000#64 0x4029000000000000#64 16#5 ∧ isNaN 0xFFF0000000000000#64 = false ∧
      isNaN 0x7FF0000000000000#64 = false ∧ fkey 0xFFF0000000000000#64 ≤ fkey 0x7FF0000000000000#64 :=
  ⟨rows_keep_the_contract .position 16#5, by decide +kernel, by decide +kernel, by decide +kernel⟩
theorem witness_QencWithinWidth :
    rangeContract 0xC020000000000000#64 0x4020000000000000#64 12#5 ∧ supportedWidth 12#5 4095 :=
  ⟨rows_keep_the_contract .velocity 12#5, .inl ⟨rfl, rfl⟩⟩
theorem witness_QuantizerEndPoints : supportedWidth 12#5 4095 ∧ supportedWidth 16#5 65535 :=
  ⟨.inl ⟨rfl, rfl⟩, .inr ⟨rfl, rfl⟩⟩
/-- Both sides of the threshold. -/
theorem witness_UnpackResult : (5#4).toNat < 6 ∧ 6 ≤ (6#4).toNat := by decide
theorem witness_DecodeIgnoresLengthAndLastBytes :
    (0x17B3329FF88D2500#64).extractLsb' 16 48 = (0x17B3329FF88DFFFF#64).extractLsb' 16 48 ∧
      6 ≤ (6#4).toNat ∧ 6 ≤ (15#4).toNat := by decide
theorem witness_DecodedReplyInRangeAndNotZero :
    unpackFrame 0x0080008008000000#64 8#4 = some (replyOf 0x0080008008000000#64) := rfl
theorem witness_TransmissionsDoNotInterfere :
    transmits (.txExit true) = true ∧ transmits (.txCmd false) = true ∧ ∃ t, exec (.txExit true) demo = .next t :=
  ⟨rfl, rfl, _, rfl⟩
/-- Setpoints for which both sides hold, for each control frame (V-P14, V-P15, V-P16). -/
theorem witness_AliasByRawCodes :
    let sp (t : F64) : Setpoints := ⟨0x4029000000000000#64, 0x4020000000000000#64, 0x407F400000000000#64,
      0x4014000000000000#64, t⟩
    0#2 ≠ 3#2 ∧ txFrame 3#2 (sp 0x4061F9999999999A#64) = txFrame 0#2 (sp 0#64) ∧
      txFrame 3#2 (sp 0x4061FB851EB851EC#64) = txFrame 1#2 (sp 0#64) ∧
      txFrame 3#2 (sp 0x4061FDC28F5C28F6#64) = txFrame 2#2 (sp 0#64) := by decide +kernel
/-- The ends of the torque intervals (70_reset_and_hazards.md R156). -/
theorem witness_CommandFrameAliasSet :
    let f (t : F64) := txFrame 3#2 ⟨0x4028FFFFFFFFFFFF#64, 0x401FFFFFFFFFFFFF#64, 0x407F400000000000#64,
      0x4014000000000000#64, t⟩
    f 0x4061F93F93F93F93#64 = 0xFFFFFFFFFFFFFFFC#64 ∧ f 0x4061FB7FB7FB7FB6#64 = 0xFFFFFFFFFFFFFFFC#64 ∧
      f 0x4061FB7FB7FB7FB7#64 = 0xFFFFFFFFFFFFFFFD#64 ∧ f 0x4061FDBFDBFDBFDA#64 = 0xFFFFFFFFFFFFFFFD#64 ∧
      f 0x4061FDBFDBFDBFDB#64 = 0xFFFFFFFFFFFFFFFE#64 ∧ f 0x4061FFFFFFFFFFFE#64 = 0xFFFFFFFFFFFFFFFE#64 ∧
      f 0x4061FFFFFFFFFFFF#64 = 0xFFFFFFFFFFFFFFFF#64 := by decide +kernel
theorem witness_OutputsFormKept :
    outputsOk demo.out = true ∧
      ∃ t, step (demoWith .sched (.request { reqValid := true, reqCode := 0x23#6 })) = .next t :=
  ⟨by decide, _, rfl⟩
/-- Both ends of both ranges of indices. -/
theorem witness_IndexNamingNothingRefused :
    (5 ≤ (5#3).toNat ∧ 5 ≤ (7#3).toNat) ∧ (3 ≤ (3#3).toNat ∧ 3 ≤ (7#3).toNat) := by decide
theorem witness_WrittenSetpointReadsBack :
    (∃ t, exec (.wrsp 0 4#3 0x4069000000000000#64) demo = .next t) ∧ 0#3 ≠ 4#3 ∧
      ∃ u, exec (.rdsp 0 0#3) demo = .next u ∧ u.out.fOut = some 0x4014000000000000#64 :=
  ⟨⟨_, rfl⟩, by decide, _, rfl, rfl⟩
theorem witness_LastWriteWins :
    (∃ t u, exec (.wrsp 0 4#3 0x4069000000000000#64) demo = .next t ∧ exec (.txCmd true) t = .next u ∧
      ∃ w, exec (.wrsp 0 4#3 0) t = .next w) ∧
      6 ≤ (6#4).toNat ∧ 6 ≤ (8#4).toNat ∧ ∃ t, exec (.rx 0 0x17B3329FF88D2500#64 6#4) demo = .next t :=
  ⟨⟨_, _, rfl, rfl, _, rfl⟩, by decide, by decide, _, rfl⟩
/-- Both sides of the threshold. -/
theorem witness_RxPublishesAllOrNothing : (5#4).toNat < 6 ∧ 6 ≤ (6#4).toNat := by decide
theorem witness_ResetInputRestoresDefaults :
    (demoWith .host (.request { rst := true })).env.current = some (.request { rst := true }) := rfl
theorem witness_WhoChangesWhat :
    (∃ t, exec (.wrsp 0 0#3 0) demo = .next t) ∧ writesSetpoints (.disc 0) = false ∧
      writesTelemetry (.wrsp 0 0#3 0) = false := ⟨⟨_, rfl⟩, rfl, rfl⟩
theorem witness_RepeatingGivesTheSame :
    (∃ t, exec (.rdtl 0 2#3) demo = .next t) ∧ writesSetpoints (.rdtl 0 2#3) = false ∧
      writesTelemetry (.rdtl 0 2#3) = false := ⟨⟨_, rfl⟩, rfl, rfl⟩
/-- Two states that agree on telemetry, two that agree on setpoints, and one presented stimulus. -/
theorem witness_GroupsDoNotMix :
    let s := demoWith .sched (.request { reqValid := true, reqCode := 0x23#6 })
    let s₁ := { s with sp := Setpoints.defaults }
    let s₂ := { s with tl := Telemetry.defaults }
    s.env = s₁.env ∧ s.tl = s₁.tl ∧ s.env = s₂.env ∧ s.sp = s₂.sp ∧ s.sp ≠ s₁.sp ∧ s.tl ≠ s₂.tl ∧
      (∃ t, step s = .next t) ∧ (∃ t, step s₁ = .next t) ∧ ∃ t, step s₂ = .next t :=
  ⟨rfl, rfl, rfl, rfl, by decide, by decide, ⟨_, rfl⟩, ⟨_, rfl⟩, _, rfl⟩
theorem witness_TelemetryRangeKept :
    telemetryOk demo.tl = true ∧
      ∃ t, step (demoWith .poll (.request { reqValid := true, reqCode := 0x24#6, len := 8 })) = .next t :=
  ⟨by decide +kernel, _, rfl⟩
theorem witness_DutiesKeepOwnership :
    disciplined (demoWith .host (.request { reqValid := true, reqCode := 0x14#6 })).env = true ∧
      (∃ t, step (demoWith .host (.request { reqValid := true, reqCode := 0x14#6 })) = .next t ∧ t.sp ≠ demo.sp) ∧
      disciplined (demoWith .sched (.request { reqValid := true, reqCode := 0x23#6 })).env = true ∧
      ∃ t, step (demoWith .sched (.request { reqValid := true, reqCode := 0x23#6 })) = .next t ∧
        t.out.txValid = true :=
  ⟨by decide, ⟨_, rfl, by decide⟩, by decide, _, rfl, rfl⟩
/-- POLL's turn with a received frame changes telemetry; the same frame in BUS's turn breaks its duties. -/
theorem witness_DutiesKeepOwnership_poll :
    let s := demoWith .poll (.frame .reply 0x17B3329FF88D2500#64)
    disciplined s.env = true ∧
      disciplined (demoWith .bus (.frame .reply 0x17B3329FF88D2500#64)).env = false ∧
      ((nextOf (step s)).map State.tl).isSome = true ∧ (nextOf (step s)).map State.tl ≠ some s.tl := by
  decide +kernel

end Sys2Proof.Tests
end

section
/-! PROOFS. Correct rounding (00_scope.md R7): the nearest value and the tie rule are proved for rounding with no
upper end, once; the obligations about rounding, its overflow and the four operations follow from that. -/

namespace Sys2Proof.Machine

/-! ### Rounding to an integer is to nearest, ties to even -/

/-- How far `u` units are from `n / d` units, times `d`. -/
def offBy (n d u : Nat) : Nat := ((n : Int) - d * u).natAbs

/-- Rounding to an integer moves the quotient by at most one half, and by exactly one half only to an even
integer. -/
theorem roundHalfEven_off_le_half (n : Nat) {d : Nat} (hd : 0 < d) :
    2 * offBy n d (roundHalfEven n d) ≤ d ∧
      (2 * offBy n d (roundHalfEven n d) = d → roundHalfEven n d % 2 = 0) := by
  have hdecomp := Nat.div_add_mod n d
  have hrem := Nat.mod_lt n hd
  have hup : d * (n / d + 1) = d * (n / d) + d := Nat.mul_succ _ _
  unfold roundHalfEven offBy
  split_ifs with hbelow habove
  · omega
  · omega
  · rcases Nat.mod_two_eq_zero_or_one (n / d) with heven | hodd
    · rw [heven, Nat.add_zero]; omega
    · rw [hodd]; omega

/-- Two different integers are a whole step apart. -/
theorem step_le_offBy_add_offBy (n d : Nat) {s t : Nat} (h : s ≠ t) : d ≤ offBy n d s + offBy n d t := by
  unfold offBy
  rcases Nat.lt_or_gt_of_ne h with hlt | hgt
  · have : d * (s + 1) ≤ d * t := Nat.mul_le_mul_left _ hlt
    rw [Nat.mul_succ] at this
    omega
  · have : d * (t + 1) ≤ d * s := Nat.mul_le_mul_left _ hgt
    rw [Nat.mul_succ] at this
    omega

/-- No integer is nearer than the rounded one, and where another is as near, the rounded one is even. -/
theorem roundHalfEven_nearest (n t : Nat) {d : Nat} (hd : 0 < d) :
    offBy n d (roundHalfEven n d) ≤ offBy n d t ∧
      (offBy n d (roundHalfEven n d) = offBy n d t → t ≠ roundHalfEven n d → roundHalfEven n d % 2 = 0) := by
  obtain ⟨hhalf, htie⟩ := roundHalfEven_off_le_half n hd
  by_cases hts : t = roundHalfEven n d
  · subst hts; exact ⟨le_refl _, fun _ hne => absurd rfl hne⟩
  · have hstep := step_le_offBy_add_offBy n d hts
    exact ⟨by omega, fun heq _ => htie (by omega)⟩

/-- A distance to a multiple of a spacing is a distance at that spacing. -/
theorem offBy_mul (n d s p : Nat) : offBy n d (s * p) = offBy n (d * p) s := by
  unfold offBy
  congr 1
  push_cast
  ring

/-- Below the quotient, the greater value is nearer. -/
theorem offBy_lt_of_lt {n d u v : Nat} (hd : 0 < d) (huv : u < v) (hv : d * v ≤ n) : offBy n d v < offBy n d u := by
  have : d * u < d * v := Nat.mul_lt_mul_of_pos_left huv hd
  unfold offBy
  omega

/-! ### Rounding with no upper end -/

/-- The magnitude field that rounding gives before it is cut off at the infinity. -/
def roundUnbounded (n d : Nat) : Nat :=
  roundExponent n d * 2 ^ 52 + roundHalfEven n (d * 2 ^ roundExponent n d)

theorem roundMag_eq_min (n d : Nat) : roundMag n d = Nat.min infMag (roundUnbounded n d) := rfl

/-- A finite rounding is the unbounded one. -/
theorem roundMag_eq_unbounded {n d : Nat} (h : roundMag n d < infMag) : roundMag n d = roundUnbounded n d := by
  rw [roundMag_eq_min] at *
  exact min_eq_right (not_lt.1 fun hlt => by simp [hlt.le] at h)

/-- `units_of_parts` with the carry out of the significand included. -/
theorem units_of_parts_carry {k sig : Nat} (h : sig ≤ 2 ^ 53) (hk : 0 < k → 2 ^ 52 ≤ sig) :
    units (k * 2 ^ 52 + sig) = sig * 2 ^ k := by
  rcases Nat.lt_or_eq_of_le h with hlt | rfl
  · exact units_of_parts hlt hk
  · rw [show k * 2 ^ 52 + 2 ^ 53 = (k + 1) * 2 ^ 52 + 2 ^ 52 by ring,
      units_of_parts (by norm_num) (fun _ => le_refl _)]
    ring

theorem units_roundUnbounded (n d : Nat) :
    units (roundUnbounded n d) = roundHalfEven n (d * 2 ^ roundExponent n d) * 2 ^ roundExponent n d :=
  units_of_parts_carry (significand_bounds n d).1 (significand_bounds n d).2

/-- From the first value of a spacing on, every value is a multiple of that spacing. -/
theorem units_eq_mul_of_le {k m : Nat} (h : k * 2 ^ 52 + 2 ^ 52 ≤ m ∨ k = 0) :
    ∃ t, units m = t * 2 ^ k := by
  obtain ⟨k', sig, rfl, hsig, hk'⟩ := exists_parts m
  have hkk : k ≤ k' := by omega
  refine ⟨sig * 2 ^ (k' - k), ?_⟩
  rw [units_of_parts hsig hk', mul_assoc, ← pow_add, Nat.sub_add_cancel hkk]

/-- Unbounded rounding is to nearest, ties to even, among all magnitudes. Values below the range in which the
spacing is that of the result lie on the far side of the first value of that range. -/
theorem roundUnbounded_nearest (n m : Nat) {d : Nat} (hd : 0 < d) :
    offBy n d (units (roundUnbounded n d)) ≤ offBy n d (units m) ∧
      (offBy n d (units (roundUnbounded n d)) = offBy n d (units m) → m ≠ roundUnbounded n d →
        roundUnbounded n d % 2 = 0) := by
  have hD : 0 < d * 2 ^ roundExponent n d := by positivity
  rw [units_roundUnbounded, offBy_mul]
  by_cases hm : roundExponent n d * 2 ^ 52 + 2 ^ 52 ≤ m ∨ roundExponent n d = 0
  · obtain ⟨t, ht⟩ := units_eq_mul_of_le hm
    obtain ⟨hle, htie⟩ := roundHalfEven_nearest n t hD
    rw [ht, offBy_mul]
    refine ⟨hle, fun heq hne => ?_⟩
    have hts : t ≠ roundHalfEven n (d * 2 ^ roundExponent n d) := by
      rintro rfl
      exact hne (units_inj.1 (ht.trans (units_roundUnbounded n d).symm))
    have := htie heq hts
    unfold roundUnbounded
    omega
  · push Not at hm
    obtain ⟨hlt, hpos⟩ := hm
    have hfirst : d * (2 ^ 52 * 2 ^ roundExponent n d) ≤ n :=
      (Nat.mul_le_mul_left d ((roundExponent_bounds n d).2 (by omega))).trans (Nat.mul_div_le n d)
    have hbelow : units m < 2 ^ 52 * 2 ^ roundExponent n d := by
      rw [← units_of_parts (by norm_num) (fun _ => le_refl _)]
      exact units_lt.2 hlt
    have hfar := offBy_lt_of_lt hd hbelow hfirst
    have hnear := (roundHalfEven_nearest n (2 ^ 52) hD).1
    rw [offBy_mul] at hfar
    exact ⟨by omega, fun heq _ => by omega⟩

/-- A finite rounding is to nearest, ties to even, among all magnitudes. -/
theorem roundMag_nearest {n d : Nat} (m : Nat) (hd : 0 < d) (hfin : roundMag n d < infMag) :
    offBy n d (units (roundMag n d)) ≤ offBy n d (units m) ∧
      (offBy n d (units (roundMag n d)) = offBy n d (units m) → m ≠ roundMag n d → roundMag n d % 2 = 0) := by
  rw [roundMag_eq_unbounded hfin]
  exact roundUnbounded_nearest n m hd

/-- Settles O14: a finite rounding is the unbounded one, which is to nearest among all magnitudes. -/
theorem roundNearestEven : Obligations.RoundNearestEven :=
  fun _ _ m hd hfin _ => roundMag_nearest m hd hfin

/-! ### Overflow -/

/-- The greatest finite magnitude: half a step below the overflow bound. -/
theorem units_infMag_pred : units (infMag - 1) = (2 ^ 54 - 2) * 2 ^ 2044 := by
  rw [show infMag - 1 = 2045 * 2 ^ 52 + (2 ^ 53 - 1) by decide,
    units_of_parts (by norm_num) (fun _ => by norm_num), show 2045 = 1 + 2044 from rfl, pow_add, ← mul_assoc]
  norm_num only

/-- The field of the infinity continues the finite magnitudes: half a step above the overflow bound. -/
theorem units_infMag : units infMag = 2 ^ 54 * 2 ^ 2044 := by
  rw [show infMag = 2046 * 2 ^ 52 + 2 ^ 52 by decide,
    units_of_parts (by norm_num) (fun _ => le_refl _), show 2046 = 2 + 2044 from rfl, pow_add, ← mul_assoc, ← pow_add]

/-- Below the bound the greatest finite magnitude is nearer than the infinity's field and all above it. -/
theorem roundMag_lt_infMag {n d : Nat} (hd : 0 < d) (h : n < (2 ^ 54 - 1) * 2 ^ 2044 * d) :
    roundMag n d < infMag := by
  by_contra hinf
  have hle : infMag ≤ roundUnbounded n d := (not_lt.1 hinf).trans (Nat.min_le_right _ _)
  have habove : d * (2 ^ 54 * 2 ^ 2044) ≤ d * units (roundUnbounded n d) :=
    Nat.mul_le_mul_left d (units_infMag ▸ units_le.2 hle)
  have hnear := (roundUnbounded_nearest n (infMag - 1) hd).1
  rw [units_infMag_pred] at hnear
  unfold offBy at hnear
  generalize 2 ^ 2044 = p at *
  have hmax : d * ((2 ^ 54 - 2) * p) = (2 ^ 54 - 2) * (d * p) := by ring
  have hbound : (2 ^ 54 - 1) * p * d = (2 ^ 54 - 1) * (d * p) := by ring
  have htop : d * (2 ^ 54 * p) = 2 ^ 54 * (d * p) := by ring
  rw [← Nat.cast_mul, ← Nat.cast_mul, hmax] at hnear
  rw [hbound] at h
  rw [htop] at habove
  omega

/-- Settles O15: the bound itself rounds to the infinity, as a tie, and rounding is monotone. -/
theorem roundOverflow : Obligations.RoundOverflow := by
  intro n d hd
  constructor
  · intro h
    by_contra hlt
    exact absurd h (roundMag_lt_infMag hd (not_le.1 hlt)).ne
  · intro h
    have hbound : roundMag ((2 ^ 54 - 1) * 2 ^ 2044) 1 = infMag := by decide +kernel
    refine le_antisymm (roundMag_le_infMag n d) ?_
    rw [← hbound]
    exact roundMag_mono one_pos hd (by rwa [Nat.mul_one])

/-! ### Signed values -/

/-- The number with a given sign and magnitude. -/
def signed (neg : Bool) (n : Nat) : Int := if neg then -(n : Int) else n

@[simp] theorem signed_true (n : Nat) : signed true n = -(n : Int) := rfl
@[simp] theorem signed_false (n : Nat) : signed false n = n := rfl

theorem fval_eq_signed (x : F64) : fval x = signed (fsign x) (units (fmag x)) := rfl

theorem signed_mul (s t : Bool) (m n : Nat) : signed s m * signed t n = signed (s != t) (m * n) := by
  cases s <;> cases t <;> simp

theorem isFinite_iff (x : F64) : isFinite x = true ↔ fmag x < infMag := decide_eq_true_iff

theorem isInf_of_isFinite {x : F64} (h : isFinite x = true) : isInf x = false :=
  decide_eq_false ((isFinite_iff x).1 h).ne

/-- Finiteness of a rounded pattern is that of its magnitude. -/
theorem isFinite_ofMag_roundMag (neg : Bool) (n d : Nat) :
    isFinite (ofMag neg (roundMag n d)) = true ↔ roundMag n d < infMag := by
  rw [isFinite_iff, fmag_ofMag (roundMag_lt n d)]

/-- A value of the same sign is as far off as its magnitude is. -/
theorem natAbs_sub_signed_same (neg : Bool) (n d u : Nat) :
    (d * signed neg u - signed neg n).natAbs = offBy n d u := by
  unfold offBy
  cases neg <;> simp <;> omega

/-- A value of the other sign is farther off than zero, by its magnitude. -/
theorem natAbs_sub_signed_opposite (neg : Bool) (n d u : Nat) :
    (d * signed (!neg) u - signed neg n).natAbs = offBy n d 0 + d * u := by
  unfold offBy
  cases neg <;> simp <;> omega

/-- A pattern with the sign of the exact result and its rounded magnitude is correctly rounded. -/
theorem nearestEven_ofMag_roundMag (neg : Bool) {n d : Nat} (hd : 0 < d) (hfin : roundMag n d < infMag) :
    nearestEven (fun c => (d * fval c - signed neg n).natAbs) (ofMag neg (roundMag n d)) := by
  intro c _
  have hr : (d * fval (ofMag neg (roundMag n d)) - signed neg n).natAbs = offBy n d (units (roundMag n d)) := by
    rw [fval_eq_signed, fsign_ofMag (roundMag_lt n d), fmag_ofMag (roundMag_lt n d), natAbs_sub_signed_same]
  beta_reduce
  rw [fmag_ofMag (roundMag_lt n d), hr, fval_eq_signed c]
  by_cases hs : fsign c = neg
  · obtain ⟨hle, htie⟩ := roundMag_nearest (fmag c) hd hfin
    rw [hs, natAbs_sub_signed_same]
    exact ⟨hle, fun heq hne => htie heq.symm hne⟩
  · obtain ⟨hle, htie⟩ := roundMag_nearest 0 hd hfin
    rw [units_zero] at hle htie
    rw [Bool.eq_not_of_ne hs, natAbs_sub_signed_opposite]
    refine ⟨by omega, fun heq hne => ?_⟩
    have hc : d * units (fmag c) = 0 := by omega
    have hzero : fmag c = 0 := units_inj.1 ((Nat.mul_eq_zero.1 hc).resolve_left hd.ne')
    exact htie (by omega) (hzero ▸ hne)

/-! ### The four operations -/

/-- The sum of finite values, rounded once, with its sign. -/
theorem fadd_of_isFinite {a b : F64} (ha : isFinite a = true) (hb : isFinite b = true) :
    ∃ neg n, fval a + fval b = signed neg n ∧ fadd a b = ofMag neg (roundMag n 1) := by
  unfold fadd
  simp only [isNaN_of_isFinite ha, isNaN_of_isFinite hb, isInf_of_isFinite ha, isInf_of_isFinite hb,
    Bool.or_self, Bool.false_eq_true, if_false]
  split_ifs with hzero
  · exact ⟨fsign a && fsign b, 0, by rw [hzero]; cases fsign a && fsign b <;> rfl, by rw [roundMag_zero]⟩
  · refine ⟨_, _, ?_, rfl⟩
    simp only [signed, decide_eq_true_eq]
    split_ifs <;> omega

/-- The product of finite values, rounded once, with its sign. -/
theorem fmul_of_isFinite {a b : F64} (ha : isFinite a = true) (hb : isFinite b = true) :
    fmul a b = ofMag (fsign a != fsign b) (roundMag (units (fmag a) * units (fmag b)) oneUnits) := by
  unfold fmul
  simp [isNaN_of_isFinite ha, isNaN_of_isFinite hb, isInf_of_isFinite ha, isInf_of_isFinite hb]

/-- The quotient of finite values, rounded once, with its sign. -/
theorem fdiv_of_isFinite {a b : F64} (ha : isFinite a = true) (hb : isFinite b = true) (h0 : fmag b ≠ 0) :
    fdiv a b = ofMag (fsign a != fsign b) (roundMag (units (fmag a) * oneUnits) (units (fmag b))) := by
  unfold fdiv
  simp [isNaN_of_isFinite ha, isNaN_of_isFinite hb, isInf_of_isFinite ha, isInf_of_isFinite hb, h0]

theorem fmag_fneg (x : F64) : fmag (fneg x) = fmag x := by
  unfold fmag fneg
  rw [BitVec.toNat_xor, Nat.xor_mod_two_pow]
  exact Nat.xor_zero _

theorem fsign_fneg (x : F64) : fsign (fneg x) = !fsign x := by
  unfold fsign fneg
  rw [BitVec.msb_xor]
  exact Bool.xor_true _

theorem fval_fneg (x : F64) : fval (fneg x) = -fval x := by
  rw [fval_eq_signed, fval_eq_signed, fmag_fneg, fsign_fneg]
  cases fsign x <;> simp

theorem isFinite_fneg (x : F64) : isFinite (fneg x) = isFinite x := by
  unfold isFinite
  rw [fmag_fneg]

theorem oneUnits_pos : 0 < oneUnits := by
  unfold oneUnits
  positivity

theorem oneUnits_cast : ((oneUnits : Nat) : Int) = 2 ^ 1074 := by
  unfold oneUnits
  exact Nat.cast_pow 2 1074

theorem fadd_nearestEven {a b : F64} (ha : isFinite a = true) (hb : isFinite b = true)
    (hfin : isFinite (fadd a b) = true) :
    nearestEven (fun c => (fval c - (fval a + fval b)).natAbs) (fadd a b) := by
  obtain ⟨neg, n, hval, hadd⟩ := fadd_of_isFinite ha hb
  rw [hadd, isFinite_ofMag_roundMag] at hfin
  rw [hadd, hval]
  simpa using nearestEven_ofMag_roundMag neg one_pos hfin

theorem fsub_nearestEven {a b : F64} (ha : isFinite a = true) (hb : isFinite b = true)
    (hfin : isFinite (fsub a b) = true) :
    nearestEven (fun c => (fval c - (fval a - fval b)).natAbs) (fsub a b) := by
  have h := fadd_nearestEven ha ((isFinite_fneg b).trans hb) hfin
  rwa [fval_fneg, ← sub_eq_add_neg] at h

theorem fmul_nearestEven {a b : F64} (ha : isFinite a = true) (hb : isFinite b = true)
    (hfin : isFinite (fmul a b) = true) :
    nearestEven (fun c => (fval c * 2 ^ 1074 - fval a * fval b).natAbs) (fmul a b) := by
  rw [fmul_of_isFinite ha hb] at *
  rw [isFinite_ofMag_roundMag] at hfin
  have h := nearestEven_ofMag_roundMag (fsign a != fsign b) oneUnits_pos hfin
  rw [← signed_mul, ← fval_eq_signed, ← fval_eq_signed, oneUnits_cast] at h
  simpa only [mul_comm] using h

/-- A distance taken with a signed divisor is the distance taken with its magnitude. -/
theorem natAbs_mul_signed_sub (x : Int) (s t : Bool) (d m k : Nat) :
    (x * signed t d - signed s m * k).natAbs = (d * x - signed (s != t) (m * k)).natAbs := by
  cases t
  · congr 1
    cases s <;> simp <;> ring
  · rw [← Int.natAbs_neg]
    congr 1
    cases s <;> simp <;> ring

theorem fdiv_nearestEven {a b : F64} (ha : isFinite a = true) (hb : isFinite b = true)
    (hfin : isFinite (fdiv a b) = true) (h0 : fval b ≠ 0) :
    nearestEven (fun c => (fval c * fval b - fval a * 2 ^ 1074).natAbs) (fdiv a b) := by
  have hub : units (fmag b) ≠ 0 := by
    intro hz
    rw [fval_eq_signed, hz] at h0
    cases hs : fsign b <;> simp [hs] at h0
  have hmag : fmag b ≠ 0 := fun hz => hub (by rw [hz, units_zero])
  rw [fdiv_of_isFinite ha hb hmag] at *
  rw [isFinite_ofMag_roundMag] at hfin
  rw [← oneUnits_cast, fval_eq_signed a, fval_eq_signed b]
  simp only [natAbs_mul_signed_sub]
  exact nearestEven_ofMag_roundMag _ (Nat.pos_of_ne_zero hub) hfin

/-- Settles O16: each operation on finite operands is one rounding of its exact result, with that result's sign. -/
theorem arithmeticCorrectlyRounded : Obligations.ArithmeticCorrectlyRounded :=
  fun _ _ ha hb => ⟨fadd_nearestEven ha hb, fsub_nearestEven ha hb, fmul_nearestEven ha hb, fdiv_nearestEven ha hb⟩

/-! ### The conversions -/

/-- An integer below 2^53 is a finite binary64 value: shifted until its top bit is bit 52, it is a significand. -/
theorem exists_units_eq_mul_oneUnits {n : Nat} (h : n < 2 ^ 53) : ∃ m < infMag, units m = n * oneUnits := by
  rcases Nat.eq_zero_or_pos n with rfl | hpos
  · exact ⟨0, by decide, by simp [units_zero]⟩
  · have hlog : Nat.log2 n < 53 := (Nat.log2_lt hpos.ne').2 h
    have hlow : 2 ^ 52 ≤ n * 2 ^ (52 - Nat.log2 n) := by
      calc 2 ^ 52 = 2 ^ Nat.log2 n * 2 ^ (52 - Nat.log2 n) := by rw [← pow_add]; congr 1; omega
        _ ≤ n * 2 ^ (52 - Nat.log2 n) := Nat.mul_le_mul_right _ (Nat.log2_self_le hpos.ne')
    have hhigh : n * 2 ^ (52 - Nat.log2 n) < 2 ^ 53 := by
      calc n * 2 ^ (52 - Nat.log2 n) < 2 ^ (Nat.log2 n + 1) * 2 ^ (52 - Nat.log2 n) :=
            Nat.mul_lt_mul_of_pos_right Nat.lt_log2_self (by positivity)
        _ = 2 ^ 53 := by rw [← pow_add]; congr 1; omega
    refine ⟨(1022 + Nat.log2 n) * 2 ^ 52 + n * 2 ^ (52 - Nat.log2 n), ?_, ?_⟩
    · unfold infMag; omega
    · rw [units_of_parts hhigh (fun _ => hlow), mul_assoc, ← pow_add, oneUnits]
      congr 2
      omega

theorem u2f_exact {n : Nat} (h : n < 2 ^ 53) : isFinite (u2f n) = true ∧ fval (u2f n) = n * 2 ^ 1074 := by
  obtain ⟨m, hm, hunits⟩ := exists_units_eq_mul_oneUnits h
  have hround : roundMag (n * oneUnits) 1 = m := by
    have := roundMag_units one_pos hm.le
    rwa [Nat.mul_one, hunits] at this
  have hm63 : m < 2 ^ 63 := hround ▸ roundMag_lt _ _
  unfold u2f
  rw [hround, isFinite_iff, fmag_ofMag hm63, fval_ofMag hm63, hunits, ← oneUnits_cast]
  exact ⟨hm, Nat.cast_mul n oneUnits⟩

/-- The magnitude of a value that is not negative is the value; `-0.0` is included. -/
theorem fval_eq_units_of_nonneg {x : F64} (h : 0 ≤ fval x) : fval x = units (fmag x) := by
  unfold fval at *
  split_ifs at * <;> omega

theorem ftrunc_floor {x : F64} (h : 0 ≤ fval x) :
    (ftrunc x : Int) * 2 ^ 1074 ≤ fval x ∧ fval x < ((ftrunc x : Int) + 1) * 2 ^ 1074 := by
  rw [fval_eq_units_of_nonneg h, ← oneUnits_cast]
  unfold ftrunc
  constructor
  · exact_mod_cast Nat.div_mul_le_self _ _
  · exact_mod_cast Nat.lt_mul_of_div_lt (Nat.lt_succ_self _) oneUnits_pos

/-- Settles O17: below 2^53 there is nothing to round, and `ftrunc` divides by the units of 1.0. -/
theorem conversionsExact : Obligations.ConversionsExact :=
  ⟨fun _ => u2f_exact, fun _ _ => ftrunc_floor⟩

end Sys2Proof.Machine
end

section
/-! PROOFS. The whole machine's groups and their owners (10_state.md R11 to R15, R24): the effect of an instruction
is said once, and which group changes when, and in whose turn, is read off it; that telemetry stays in range is the
monotonicity of QDEC between its two exact ends (40_quantizer.md R73). -/

namespace Sys2Proof.Machine

/-! ### What one instruction can do -/

/-- The effects an instruction can have on the state: it answers on the outputs only, writes one setpoint, publishes
a decoded reply as telemetry, or resets telemetry. What publishes is one of POLL's operations: RX, and an arriving
frame (60_exceptions.md R136; log entry 3). -/
inductive Effect : Instr → State → State → Prop where
  | answer {i : Instr} {s : State} {o : OutPorts} (htx : o.txValid = transmits i) : Effect i s (s.respond o)
  | write {s : State} (sel : BitVec 2) (idx : BitVec 3) (v : F64) (c : Channel) :
      Effect (.wrsp sel idx v) s ((s.setSetpoints (s.sp.set c v)).respond (OutPorts.statusOnly .ok))
  | publish {i : Instr} {s : State} (w : Frame) (r : Reply) (hr : r = replyOf w)
      (hpoll : mayIssue .poll i = true) :
      Effect i s ((s.setTelemetry r.telemetry).respond (OutPorts.decodedReply r))
  | disconnect {s : State} (sel : BitVec 2) :
      Effect (.disc sel) s ((s.setTelemetry Telemetry.defaults).respond (OutPorts.statusOnly .ok))

/-- POLL's operations write telemetry and transmit nothing. -/
theorem mayIssue_poll_effect {i : Instr} (h : mayIssue .poll i = true) :
    writesTelemetry i = true ∧ transmits i = false := by
  cases i with
  | rx | frameCmd | frameReply | frameEnter | frameExit | frameZero => exact ⟨rfl, rfl⟩
  | _ => nomatch h

/-- A receive publishes, or the reply is too short and only the status says so (43_register_and_session_ops.md R114,
R115). -/
theorem effect_receive {i : Instr} (s : State) (w : Frame) (len : BitVec 4) (hpoll : mayIssue .poll i = true) :
    Effect i s (s.receive w len) := by
  rw [State.receive_eq]
  split
  · exact .answer (mayIssue_poll_effect hpoll).2.symm
  · exact .publish w _ rfl hpoll

/-- An instruction that answers a next state has one of the four effects. -/
theorem exec_effect {i : Instr} {s t : State} (h : exec i s = .next t) : Effect i s t := by
  cases i with
  | qenc sel => obtain ⟨-, rfl⟩ := execQenc_next (sel := sel) h; exact .answer rfl
  | qdec sel => obtain ⟨-, rfl⟩ := execQdec_next (sel := sel) h; exact .answer rfl
  | pack => exact Host.Outcome.next.inj h ▸ .answer rfl
  | unpack sel w len =>
    obtain rfl : s.decodeReply w len = t := Host.Outcome.next.inj h
    rw [State.decodeReply_eq]
    split <;> exact .answer rfl
  | wrsp sel idx v => obtain ⟨c, -, rfl⟩ := execWrsp_next (sel := sel) h; exact .write sel idx v c
  | rdsp sel => obtain ⟨c, -, rfl⟩ := execRdsp_next (sel := sel) h; exact .answer rfl
  | rdtl sel => obtain ⟨v, -, rfl⟩ := execRdtl_next (sel := sel) h; exact .answer rfl
  | txEnter => exact Host.Outcome.next.inj h ▸ .answer rfl
  | txExit => exact Host.Outcome.next.inj h ▸ .answer rfl
  | txZero => exact Host.Outcome.next.inj h ▸ .answer rfl
  | txCmd => exact Host.Outcome.next.inj h ▸ .answer rfl
  | rx => exact Host.Outcome.next.inj h ▸ effect_receive s _ _ rfl
  | disc sel => exact Host.Outcome.next.inj h ▸ .disconnect sel
  | frameCmd => exact Host.Outcome.next.inj h ▸ effect_receive s _ _ rfl
  | frameReply => exact Host.Outcome.next.inj h ▸ effect_receive s _ _ rfl
  | frameEnter => exact Host.Outcome.next.inj h ▸ effect_receive s _ _ rfl
  | frameExit => exact Host.Outcome.next.inj h ▸ effect_receive s _ _ rfl
  | frameZero => exact Host.Outcome.next.inj h ▸ effect_receive s _ _ rfl

/-- No instruction touches what the agents have still to present. -/
theorem Effect.env_eq {i : Instr} {s t : State} (h : Effect i s t) : t.env = s.env := by
  cases h <;> simp

/-- Settles O51: each effect of an instruction against the group it replaces. -/
theorem whoChangesWhat : Obligations.WhoChangesWhat := by
  intro i s t h
  have heff := exec_effect h
  refine ⟨?_, ?_, ?_, heff.env_eq⟩
  · cases heff with
    | write => exact nofun
    | answer | publish | disconnect => simp
  · cases heff with
    | publish w r hr hpoll => exact fun hno => absurd (mayIssue_poll_effect hpoll).1 (by simp [hno])
    | disconnect => exact nofun
    | answer | write => simp
  · cases heff with
    | answer htx => exact htx
    | publish w r hr hpoll => exact (mayIssue_poll_effect hpoll).2.symm
    | write | disconnect => rfl

/-! ### Decoded values stay in range -/

/-- `x` and `y` are finite, not negative, and `x` is at most `y`. -/
def MagLe (x y : F64) : Prop := fsign x = false ∧ fsign y = false ∧ fmag x ≤ fmag y ∧ isFinite y = true

theorem MagLe.isFinite_left {x y : F64} (h : MagLe x y) : isFinite x = true := by
  obtain ⟨-, -, hle, hy⟩ := h
  exact (isFinite_iff x).2 (hle.trans_lt ((isFinite_iff y).1 hy))

/-- A finite rounding dominates every rounding of a smaller quotient. -/
theorem magLe_ofMag_roundMag {n₁ d₁ n₂ d₂ : Nat} (h₁ : 0 < d₁) (h₂ : 0 < d₂) (h : n₁ * d₂ ≤ n₂ * d₁)
    (hfin : isFinite (ofMag false (roundMag n₂ d₂)) = true) :
    MagLe (ofMag false (roundMag n₁ d₁)) (ofMag false (roundMag n₂ d₂)) := by
  refine ⟨fsign_ofMag (roundMag_lt _ _), fsign_ofMag (roundMag_lt _ _), ?_, hfin⟩
  rw [fmag_ofMag (roundMag_lt _ _), fmag_ofMag (roundMag_lt _ _)]
  exact roundMag_mono h₁ h₂ h

theorem u2f_magLe {m n : Nat} (h : m ≤ n) (hn : n < 2 ^ 53) : MagLe (u2f m) (u2f n) :=
  magLe_ofMag_roundMag one_pos one_pos (by simpa using Nat.mul_le_mul_right oneUnits h) (u2f_exact hn).1

theorem fmul_magLe {x y b : F64} (h : MagLe x y) (hb : isFinite b = true) (hbs : fsign b = false)
    (hfin : isFinite (fmul y b) = true) : MagLe (fmul x b) (fmul y b) := by
  have hx := h.isFinite_left
  obtain ⟨hxs, hys, hle, hy⟩ := h
  rw [fmul_of_isFinite hy hb, hys, hbs] at hfin ⊢
  rw [fmul_of_isFinite hx hb, hxs, hbs]
  exact magLe_ofMag_roundMag oneUnits_pos oneUnits_pos
    (Nat.mul_le_mul_right _ (Nat.mul_le_mul_right _ (units_le.2 hle))) hfin

theorem fdiv_magLe {x y b : F64} (h : MagLe x y) (hb : isFinite b = true) (hbs : fsign b = false)
    (hb0 : fmag b ≠ 0) (hfin : isFinite (fdiv y b) = true) : MagLe (fdiv x b) (fdiv y b) := by
  have hx := h.isFinite_left
  have hpos : 0 < units (fmag b) := units_zero ▸ units_lt.2 (Nat.pos_of_ne_zero hb0)
  obtain ⟨hxs, hys, hle, hy⟩ := h
  rw [fdiv_of_isFinite hy hb hb0, hys, hbs] at hfin ⊢
  rw [fdiv_of_isFinite hx hb hb0, hxs, hbs]
  exact magLe_ofMag_roundMag hpos hpos
    (Nat.mul_le_mul_right _ (Nat.mul_le_mul_right _ (units_le.2 hle))) hfin

theorem fkey_ofMag_roundMag (neg : Bool) (n d : Nat) :
    fkey (ofMag neg (roundMag n d)) = signed neg (roundMag n d) := fkey_ofMag (roundMag_lt n d)

/-- A monotone map of magnitudes that keeps zero is monotone on signed numbers: across the signs zero lies
between. -/
theorem signed_map_mono {f : Nat → Nat} (hf : Monotone f) (h0 : f 0 = 0) {s t : Bool} {m n : Nat}
    (h : signed s m ≤ signed t n) : signed s (f m) ≤ signed t (f n) := by
  cases s <;> cases t
  case false.false => exact Int.ofNat_le.2 (hf (Int.ofNat_le.1 h))
  case true.true => exact Int.neg_le_neg (Int.ofNat_le.2 (hf (Int.ofNat_le.1 (Int.neg_le_neg_iff.1 h))))
  case true.false => simp only [signed_true, signed_false]; omega
  case false.true =>
    simp only [signed_true, signed_false] at h
    obtain ⟨rfl, rfl⟩ : m = 0 ∧ n = 0 := by omega
    simp [h0]

theorem roundMag_monotone {d : Nat} (hd : 0 < d) : Monotone fun n => roundMag n d :=
  fun _ _ h => roundMag_mono hd hd (Nat.mul_le_mul_right d h)

/-- The sum is monotone in its first operand, both zeros counted as one place. -/
theorem fadd_fkey_mono {x y c : F64} (h : MagLe x y) (hc : isFinite c = true) :
    fkey (fadd x c) ≤ fkey (fadd y c) := by
  have hx := h.isFinite_left
  obtain ⟨hxs, hys, hle, hy⟩ := h
  obtain ⟨s, m, hsx, hax⟩ := fadd_of_isFinite hx hc
  obtain ⟨t, n, hsy, hay⟩ := fadd_of_isFinite hy hc
  rw [hax, hay, fkey_ofMag_roundMag, fkey_ofMag_roundMag]
  refine signed_map_mono (roundMag_monotone one_pos) (roundMag_zero 1) ?_
  have hval : fval x ≤ fval y := by
    rw [fval_eq_signed, fval_eq_signed, hxs, hys]
    simpa using units_le.2 hle
  omega

/-- What a range needs for QDEC to be monotone at `n` steps, and QDEC's values at both ends to be the range's
(40_quantizer.md R72, R73). -/
structure DecodesOnto (r : PhysicalRange) (n : Nat) : Prop where
  steps : stepsOf r.bits = some n
  steps_lt : n < 2 ^ 53
  steps_ne_zero : fmag (u2f n) ≠ 0
  min_finite : isFinite r.min = true
  max_finite : isFinite r.max = true
  span_finite : isFinite (fsub r.max r.min) = true
  span_sign : fsign (fsub r.max r.min) = false
  product_finite : isFinite (fmul (u2f n) (fsub r.max r.min)) = true
  quotient_finite : isFinite (fdiv (fmul (u2f n) (fsub r.max r.min)) (u2f n)) = true
  low_end : dequantize 0 r.min r.max n = r.min
  high_end : dequantize n r.min r.max n = r.max

theorem decodesOnto_position : DecodesOnto (Config.range .position) 65535 := by
  constructor <;> decide +kernel

theorem decodesOnto_velocity : DecodesOnto (Config.range .velocity) 4095 := by
  constructor <;> decide +kernel

theorem decodesOnto_replyTorque : DecodesOnto replyTorqueRange 4095 := by
  constructor <;> decide +kernel

/-- QDEC is monotone in its code. -/
theorem DecodesOnto.dequantize_mono {r : PhysicalRange} {n a b : Nat} (h : DecodesOnto r n) (hab : a ≤ b)
    (hbn : b ≤ n) : fkey (dequantize a r.min r.max n) ≤ fkey (dequantize b r.min r.max n) := by
  have hfin : isFinite (u2f n) = true := (u2f_exact h.steps_lt).1
  have hsign : fsign (u2f n) = false := fsign_ofMag (roundMag_lt _ _)
  have hproduct_top := fmul_magLe (u2f_magLe hbn h.steps_lt) h.span_finite h.span_sign h.product_finite
  have hquotient_top := fdiv_magLe hproduct_top hfin hsign h.steps_ne_zero h.quotient_finite
  have hproduct := fmul_magLe (u2f_magLe hab (hbn.trans_lt h.steps_lt)) h.span_finite h.span_sign
    hproduct_top.isFinite_left
  have hquotient := fdiv_magLe hproduct hfin hsign h.steps_ne_zero hquotient_top.isFinite_left
  exact fadd_fkey_mono hquotient h.min_finite

theorem flt_eq_false_of_fkey_le {a b : F64} (h : fkey b ≤ fkey a) : flt a b = false := by
  simp [flt, h]

/-- A place between two finite places is finite: NaNs and infinities lie outside. -/
theorem isFinite_of_fkey_between {a b x : F64} (ha : isFinite a = true) (hb : isFinite b = true)
    (hax : fkey a ≤ fkey x) (hxb : fkey x ≤ fkey b) : isFinite x = true := by
  rw [isFinite_iff] at *
  unfold fkey at *
  split_ifs at * <;> omega

/-- Every code up to the last decodes into the range (41_frame_codec.md R86). -/
theorem DecodesOnto.inRange_decodeWith {r : PhysicalRange} {n : Nat} (h : DecodesOnto r n) {raw : BitVec 16}
    (hraw : raw.toNat ≤ n) : inRange r (decodeWith r raw) = true := by
  have hdec : decodeWith r raw = dequantize raw.toNat r.min r.max n := by
    simp [decodeWith, qdecValue, h.steps]
  have hlow := h.dequantize_mono (Nat.zero_le raw.toNat) hraw
  have hhigh := h.dequantize_mono hraw le_rfl
  rw [h.low_end, ← hdec] at hlow
  rw [h.high_end, ← hdec] at hhigh
  simp [inRange, fgt, flt_eq_false_of_fkey_le hlow, flt_eq_false_of_fkey_le hhigh,
    isFinite_of_fkey_between h.min_finite h.max_finite hlow hhigh]

/-- A 12-bit field on the 16-bit raw port is at most 4095. -/
theorem toNat_field_le (x : BitVec 12) : (x.setWidth 16).toNat ≤ 4095 := by
  rw [BitVec.toNat_setWidth_of_le (by omega)]
  omega

/-- Whatever frame is received, the telemetry it carries is in range. -/
theorem telemetryOk_replyOf (w : Frame) : telemetryOk (replyOf w).telemetry = true := by
  have hp := decodesOnto_position.inRange_decodeWith (Nat.le_of_lt_succ (positionRaw w).isLt)
  have hv := decodesOnto_velocity.inRange_decodeWith (toNat_field_le (velocityRaw w))
  have ht := decodesOnto_replyTorque.inRange_decodeWith (toNat_field_le (torqueRaw w))
  simp [telemetryOk, Reply.telemetry, replyOf, hp, hv, ht]

theorem telemetryOk_defaults : telemetryOk Telemetry.defaults = true := by decide +kernel

theorem Effect.telemetryOk_keep {i : Instr} {s t : State} (h : Effect i s t) (hs : telemetryOk s.tl = true) :
    telemetryOk t.tl = true := by
  cases h with
  | answer | write => exact hs
  | publish w r hr => exact hr ▸ telemetryOk_replyOf w
  | disconnect => exact telemetryOk_defaults

/-- Settles O54: a step keeps telemetry, sets its defaults, or publishes a decoded reply. -/
theorem telemetryRangeKept : Obligations.TelemetryRangeKept := by
  intro s t hs h
  obtain ⟨-, rfl⟩ | ⟨-, rfl⟩ | ⟨i, u, -, hexec, rfl⟩ := step_next h
  · exact hs
  · exact telemetryOk_defaults
  · exact (exec_effect hexec).telemetryOk_keep hs

/-! ### Reset -/

/-- Settles O55: the reset state's telemetry is the defaults. -/
theorem telemetryRangeAtReset : Obligations.TelemetryRangeAtReset := telemetryOk_defaults

/-- Settles O49, group by group. -/
theorem resetStateValues : Obligations.ResetStateValues := ⟨rfl, rfl, rfl⟩

/-! ### The agents' duties -/

/-- Discipline, agent by agent. -/
theorem disciplined_iff (e : Environment) :
    disciplined e = true ↔ ∀ a, ∀ st ∈ e.queue a, mayPresent a st = true := by
  simp only [disciplined, Bool.and_eq_true, List.all_eq_true]
  constructor
  · rintro ⟨⟨⟨hhost, hsched⟩, hpoll⟩, hbus⟩ a
    cases a
    · exact hhost
    · exact hsched
    · exact hpoll
    · exact hbus
  · exact fun h => ⟨⟨⟨h .host, h .sched⟩, h .poll⟩, h .bus⟩

/-- A turn takes stimuli away and adds none. -/
theorem disciplined_advance {e : Environment} (h : disciplined e = true) : disciplined e.advance = true := by
  rw [disciplined_iff] at *
  intro a st hst
  rw [Environment.queue_advance] at hst
  split at hst
  · exact h a st (List.mem_of_mem_tail hst)
  · exact h a st hst

/-- What is presented now comes from the queue of the agent whose turn it is. -/
theorem Environment.current_eq_some {e : Environment} {st : Stimulus} (h : e.current = some st) :
    ∃ a, e.turns.head? = some a ∧ st ∈ e.queue a := by
  unfold Environment.current at h
  split at h
  · cases h
  · rename_i a rest hturns
    exact ⟨a, by rw [hturns]; rfl, List.mem_of_mem_head? h⟩

/-- Under discipline, whatever the block has to do was presented by an agent that may present it. -/
theorem presented_of_disciplined {s : State} (h : disciplined s.env = true) (hact : s.action ≠ .idle) :
    ∃ a st, s.env.turns.head? = some a ∧ Action.ofStimulus st = s.action ∧ mayPresent a st = true := by
  unfold State.action at *
  split at hact
  · exact absurd rfl hact
  · rename_i st hst
    obtain ⟨a, hturn, hmem⟩ := Environment.current_eq_some hst
    exact ⟨a, st, hturn, rfl, (disciplined_iff s.env).1 h a st hmem⟩

/-- Only HOST resets (60_exceptions.md R134). -/
theorem turn_of_reset {s : State} (h : disciplined s.env = true) (hact : s.action = .reset) :
    s.env.turns.head? = some .host := by
  obtain ⟨a, st, hturn, hst, hmay⟩ := presented_of_disciplined h (by simp [hact])
  obtain rfl : a = .host := by simpa [mayPresent, hst, hact] using hmay
  exact hturn

/-- An agent runs only what its duties let it issue. -/
theorem turn_of_run {s : State} {i : Instr} (h : disciplined s.env = true) (hact : s.action = .run i) :
    ∃ a, s.env.turns.head? = some a ∧ mayIssue a i = true := by
  obtain ⟨a, st, hturn, hst, hmay⟩ := presented_of_disciplined h (by simp [hact])
  exact ⟨a, hturn, by simpa [mayPresent, hst, hact] using hmay⟩

theorem eq_host_of_mayIssue_wrsp {a : Agent} {sel : BitVec 2} {idx : BitVec 3} {v : F64}
    (h : mayIssue a (.wrsp sel idx v) = true) : a = .host := by
  cases a with
  | host => rfl
  | sched | poll | bus => nomatch h

theorem eq_host_of_mayIssue_disc {a : Agent} {sel : BitVec 2} (h : mayIssue a (.disc sel) = true) :
    a = .host := by
  cases a with
  | host => rfl
  | sched | poll | bus => nomatch h

/-- No other agent issues POLL's operations (60_exceptions.md R136). -/
theorem eq_poll_of_mayIssue {a : Agent} {i : Instr} (hpoll : mayIssue .poll i = true)
    (h : mayIssue a i = true) : a = .poll := by
  cases i with
  | rx | frameCmd | frameReply | frameEnter | frameExit | frameZero =>
    cases a with
    | poll => rfl
    | host | sched | bus => nomatch h
  | _ => nomatch hpoll

/-- The transmit port is HOST's and SCHED's (60_exceptions.md R134, R135). -/
theorem eq_host_or_sched_of_transmits {a : Agent} {i : Instr} (htx : transmits i = true)
    (h : mayIssue a i = true) : a = .host ∨ a = .sched := by
  cases i with
  | txEnter | txExit | txZero =>
    cases a with
    | host => exact .inl rfl
    | sched | poll | bus => nomatch h
  | txCmd =>
    cases a with
    | sched => exact .inr rfl
    | host | poll | bus => nomatch h
  | _ => nomatch htx

/-- Settles O56: a turn only shortens the queues, and each effect belongs to the agents that may issue it. -/
theorem dutiesKeepOwnership : Obligations.DutiesKeepOwnership := by
  intro s t hs h
  obtain ⟨-, rfl⟩ | ⟨hact, rfl⟩ | ⟨i, u, hact, hexec, rfl⟩ := step_next h
  · exact ⟨disciplined_advance hs, fun hne => absurd rfl hne, fun hne => absurd rfl hne, nofun⟩
  · have hturn := turn_of_reset hs hact
    exact ⟨disciplined_advance hs, fun _ => hturn, fun _ => .inr ⟨hturn, rfl⟩, nofun⟩
  · obtain ⟨a, hturn, hmay⟩ := turn_of_run hs hact
    have heff := exec_effect hexec
    refine ⟨by rw [State.advance_env, heff.env_eq]; exact disciplined_advance hs, ?_⟩
    rw [hturn]
    cases heff with
    | answer htx =>
      refine ⟨fun hne => absurd rfl hne, fun hne => absurd rfl hne, fun hvalid => ?_⟩
      simpa using eq_host_or_sched_of_transmits (htx.symm.trans hvalid) hmay
    | write =>
      obtain rfl := eq_host_of_mayIssue_wrsp hmay
      exact ⟨fun _ => rfl, fun hne => absurd rfl hne, nofun⟩
    | publish w r hr hpoll =>
      obtain rfl := eq_poll_of_mayIssue hpoll hmay
      exact ⟨fun hne => absurd rfl hne, fun _ => .inl rfl, nofun⟩
    | disconnect =>
      obtain rfl := eq_host_of_mayIssue_disc hmay
      exact ⟨fun hne => absurd rfl hne, fun _ => .inr ⟨rfl, rfl⟩, nofun⟩

end Sys2Proof.Machine
end

section
/-! PROOFS. Atomic operations in the agents' order (20_memory.md R36 to R38): a step is the presented operation and
the passing of one turn; a written setpoint reads back; an operation done again finds what it left. -/

namespace Sys2Proof.Machine

/-! ### A step is one operation of one agent -/

/-- An operation that is presented is decoded and nothing else: no reset and no idle step takes its place. -/
theorem action_of_presents {s : State} {st : Stimulus} (h : presents s st) :
    s.action = Action.ofDecoded (decode st) := by
  obtain ⟨hcurrent, hports⟩ := h
  rw [State.action, hcurrent]
  cases st with
  | request p =>
    obtain ⟨hvalid, hrst⟩ := hports p rfl
    simp [Action.ofStimulus, hvalid, hrst]
  | frame format w => rfl

theorem step_of_action_run {s : State} {i : Instr} (h : s.action = .run i) :
    step s = advanceOutcome (exec i s) := by
  rw [step, h]

/-- Settles O7: the action is to run `i`, and each outcome of `exec i` is the step's. -/
theorem stepRunsDecodedInstruction : Obligations.StepRunsDecodedInstruction := by
  intro s st i hpresents hdecode
  have hrun : s.action = .run i := by rw [action_of_presents hpresents, hdecode]; rfl
  rw [step_of_action_run hrun]
  refine ⟨fun t ht => ?_, fun r hr => ?_, fun r hr => ?_⟩
  · rw [ht]; rfl
  · rw [hr]; rfl
  · rw [hr]; rfl

/-- Every step takes one turn from the agents' side and changes nothing else there. -/
theorem step_env {s t : State} (h : step s = .next t) : t.env = s.env.advance := by
  obtain ⟨-, rfl⟩ | ⟨-, rfl⟩ | ⟨i, u, -, hexec, rfl⟩ := step_next h
  · rfl
  · rfl
  · rw [State.advance_env, (exec_effect hexec).env_eq]

/-- Settles O9: what a step does to the agents' side is one turn. -/
theorem agentsOrderKept : Obligations.AgentsOrderKept := by
  intro s t h
  rw [step_env h]
  exact ⟨s.env.turns_advance, s.env.queue_advance⟩

/-! ### A written setpoint reads back -/

/-- No two indices name one setpoint register (10_state.md R11). -/
theorem setpointChannel_inj {idx idx' : BitVec 3} {c : Channel} (h : setpointChannel idx = some c)
    (h' : setpointChannel idx' = some c) : idx = idx' := by
  revert idx idx' c; decide

/-- WRSP of an index that names a register writes that register. -/
theorem exec_wrsp_of_channel {idx : BitVec 3} {c : Channel} (h : setpointChannel idx = some c) (sel : BitVec 2)
    (v : F64) (s : State) :
    exec (.wrsp sel idx v) s =
      .next ((s.setSetpoints (s.sp.set c v)).respond (OutPorts.statusOnly .ok)) := by
  simp [exec, execWrsp, Setpoints.write, h]

/-- RDSP of an index that names a register answers that register. -/
theorem exec_rdsp_of_channel {idx : BitVec 3} {c : Channel} (h : setpointChannel idx = some c) (sel : BitVec 2)
    (s : State) : exec (.rdsp sel idx) s = .next (s.respond (OutPorts.value (s.sp.get c))) := by
  simp [exec, execRdsp, Setpoints.read, h]

/-- Settles O44: the two indices name the same register or different ones, and a write changes only its own. -/
theorem writtenSetpointReadsBack : Obligations.WrittenSetpointReadsBack := by
  intro sel sel' idx idx' v s t hwrite
  obtain ⟨c, hc, rfl⟩ := execWrsp_next (sel := sel) hwrite
  constructor
  · rw [exec_rdsp_of_channel hc, State.respond_sp, State.setSetpoints_sp, Setpoints.get_set, if_pos rfl]
    rfl
  · intro hne x u hread hx
    obtain ⟨c', hc', rfl⟩ := execRdsp_next (sel := sel') hread
    have hother : c' ≠ c := fun heq => hne (setpointChannel_inj hc' (heq ▸ hc))
    obtain rfl : s.sp.get c' = x := Option.some.inj hx
    rw [exec_rdsp_of_channel hc', State.respond_sp, State.setSetpoints_sp, Setpoints.get_set, if_neg hother]
    rfl

/-! ### An operation done again -/

/-- No operation reads the outputs of an earlier one (10_state.md R19, R20), and each replaces them all. -/
theorem exec_respond (i : Instr) (s : State) (o : OutPorts) : exec i (s.respond o) = exec i s := by
  cases i <;> rfl

/-- An operation that writes no register changes nothing but the outputs. -/
theorem exec_eq_respond {i : Instr} {s t : State} (h : exec i s = .next t) (hsp : writesSetpoints i = false)
    (htl : writesTelemetry i = false) : t = s.respond t.out := by
  cases exec_effect h with
  | answer => rfl
  | write => nomatch hsp
  | publish w r hr hpoll => exact absurd (mayIssue_poll_effect hpoll).1 (by simp [htl])
  | disconnect => nomatch htl

/-- An operation that writes no register answers again what it answered. -/
theorem exec_again_of_no_write {i : Instr} {s t : State} (h : exec i s = .next t)
    (hsp : writesSetpoints i = false) (htl : writesTelemetry i = false) : exec i t = .next t :=
  calc exec i t = exec i (s.respond t.out) := congrArg (exec i) (exec_eq_respond h hsp htl)
    _ = exec i s := exec_respond i s t.out
    _ = .next t := h

@[simp] theorem Setpoints.set_set (sp : Setpoints) (c : Channel) (v v' : F64) :
    (sp.set c v).set c v' = sp.set c v' := by
  cases c <;> rfl

theorem exec_wrsp_again {sel : BitVec 2} {idx : BitVec 3} {v : F64} {s t : State}
    (h : exec (.wrsp sel idx v) s = .next t) : exec (.wrsp sel idx v) t = .next t := by
  obtain ⟨c, hc, rfl⟩ := execWrsp_next (sel := sel) h
  rw [exec_respond, exec_wrsp_of_channel hc, State.setSetpoints_sp, Setpoints.set_set]
  rfl

/-- The outputs and telemetry are replaced independently of each other. -/
theorem State.respond_setTelemetry (s : State) (o : OutPorts) (tl : Telemetry) :
    (s.respond o).setTelemetry tl = (s.setTelemetry tl).respond o := rfl

@[simp] theorem State.setTelemetry_setTelemetry (s : State) (tl tl' : Telemetry) :
    (s.setTelemetry tl).setTelemetry tl' = s.setTelemetry tl' := rfl

/-- The same reply received again publishes the same telemetry, or is too short again. -/
theorem State.receive_receive (s : State) (w : Frame) (len : BitVec 4) :
    (s.receive w len).receive w len = s.receive w len := by
  by_cases h : len.toNat < 6
  · have hshort (u : State) : u.receive w len = u.raise .decodeTooShort := by rw [State.receive_eq, if_pos h]
    rw [hshort, hshort]
    rfl
  · have hpublish (u : State) : u.receive w len =
        (u.setTelemetry (replyOf w).telemetry).respond (OutPorts.decodedReply (replyOf w)) := by
      rw [State.receive_eq, if_neg h]
    rw [hpublish, hpublish, State.respond_setTelemetry, State.setTelemetry_setTelemetry, State.respond_respond]

/-- The same frame arriving again publishes the same telemetry. -/
theorem State.arrive_arrive (s : State) (i : Instr) : (s.arrive i).arrive i = s.arrive i :=
  State.receive_receive s (frameBits i) Config.frameLen

/-- Every operation done again leaves what it left. -/
theorem exec_again {i : Instr} {s t : State} (h : exec i s = .next t) : exec i t = .next t := by
  cases i with
  | wrsp => exact exec_wrsp_again h
  | disc => obtain rfl := Host.Outcome.next.inj h; rfl
  | rx sel w len =>
    obtain rfl : s.receive w len = t := Host.Outcome.next.inj h
    exact congrArg Host.Outcome.next (State.receive_receive s w len)
  | frameCmd | frameReply | frameEnter | frameExit | frameZero =>
    obtain rfl := Host.Outcome.next.inj h
    exact congrArg Host.Outcome.next (State.arrive_arrive s _)
  | _ => exact exec_again_of_no_write h rfl rfl

/-- Settles O52: repetition operation by operation, and the frame of the operations that write no register. -/
theorem repeatingGivesTheSame : Obligations.RepeatingGivesTheSame :=
  fun _ _ _ h => ⟨exec_again h, exec_eq_respond h⟩

end Sys2Proof.Machine
end

section
/-! PROOFS. The encoding (30_encoding.md): a field is cut out of a frame where the encoder put it, and the two halves
of a request code come back from it; that the decoder and the encoder are inverse, and which codes and patterns are
rejected, is read off these. -/

namespace Sys2Proof.Machine

/-! ### The fields of a frame -/

/-- Five fields laid end to end are cut out again, each at the sum of the widths below it. -/
theorem extract_append_five {a b c d e : Nat} (v : BitVec a) (w : BitVec b) (x : BitVec c) (y : BitVec d)
    (z : BitVec e) :
    (v ++ w ++ x ++ y ++ z).extractLsb' (b + c + d + e) a = v ∧
      (v ++ w ++ x ++ y ++ z).extractLsb' (c + d + e) b = w ∧
      (v ++ w ++ x ++ y ++ z).extractLsb' (d + e) c = x ∧
      (v ++ w ++ x ++ y ++ z).extractLsb' e d = y ∧
      (v ++ w ++ x ++ y ++ z).extractLsb' 0 e = z := by
  simp [BitVec.extractLsb'_append_eq_of_le, BitVec.extractLsb'_append_eq_right]

/-- Five adjacent cuts that fill a vector give it back: each cut joins the ones above it. -/
theorem append_extract_five {a b c d e : Nat} (w : BitVec (a + b + c + d + e)) :
    w.extractLsb' (b + c + d + e) a ++ w.extractLsb' (c + d + e) b ++ w.extractLsb' (d + e) c ++
      w.extractLsb' e d ++ w.extractLsb' 0 e = w := by
  simp [BitVec.extractLsb'_append_extractLsb'_eq_extractLsb', Nat.add_comm, Nat.add_left_comm]

/-- Each field of a command frame is cut where the encoder put it (30_encoding.md R47). -/
theorem decodeCommandFrame_append (pos : BitVec 16) (vel kp kd trq : BitVec 12) :
    decodeCommandFrame (pos ++ vel ++ kp ++ kd ++ trq) = .frameCmd pos vel kp kd trq := by
  simpa only [decodeCommandFrame, Instr.frameCmd.injEq] using extract_append_five pos vel kp kd trq

/-- Each field of a reply frame is cut where the encoder put it (30_encoding.md R50). -/
theorem decodeReplyFrame_append (id : Byte) (pos : BitVec 16) (vel trq : BitVec 12) (ignored : BitVec 16) :
    decodeReplyFrame (id ++ pos ++ vel ++ trq ++ ignored) = .frameReply id pos vel trq ignored := by
  simpa only [decodeReplyFrame, Instr.frameReply.injEq] using extract_append_five id pos vel trq ignored

/-- The fields of a command frame fill its 64 bits (30_encoding.md R47: "There is no spare bit"). -/
theorem encode_decodeCommandFrame (w : Frame) : encode (decodeCommandFrame w) = .frame .command w :=
  congrArg (Stimulus.frame .command) (append_extract_five (a := 16) (b := 12) (c := 12) (d := 12) (e := 12) w)

/-- The fields of a reply frame, its ignored bytes among them, fill its 64 bits (30_encoding.md R50). -/
theorem encode_decodeReplyFrame (w : Frame) : encode (decodeReplyFrame w) = .frame .reply w :=
  congrArg (Stimulus.frame .reply) (append_extract_five (a := 8) (b := 16) (c := 12) (d := 12) (e := 16) w)

/-- The instruction of each control frame, and no other, is read from a pattern given as one (30_encoding.md R53). -/
theorem decodeControlFrame_eq_instr (w : Frame) (i : Instr) :
    decodeControlFrame w = .instr i ↔
      (w = controlFrame Config.xEnter ∧ i = .frameEnter) ∨ (w = controlFrame Config.xExit ∧ i = .frameExit) ∨
        (w = controlFrame Config.xZero ∧ i = .frameZero) := by
  have hexit : controlFrame Config.xExit ≠ controlFrame Config.xEnter := by decide
  have hzero : controlFrame Config.xZero ≠ controlFrame Config.xEnter := by decide
  have hzero' : controlFrame Config.xZero ≠ controlFrame Config.xExit := by decide
  unfold decodeControlFrame
  split_ifs with h1 h2 h3
  · simp [h1, hexit.symm, hzero.symm, eq_comm]
  · simp [h2, hexit, hzero'.symm, eq_comm]
  · simp [h3, hzero, hzero', eq_comm]
  · simp [h1, h2, h3]

/-! ### The two halves of a request code -/

@[simp] theorem opOf_append (op : BitVec 4) (sel : BitVec 2) : opOf (op ++ sel) = op :=
  BitVec.extractLsb'_append_eq_left

@[simp] theorem selOf_append (op : BitVec 4) (sel : BitVec 2) : selOf (op ++ sel) = sel :=
  BitVec.extractLsb'_append_eq_right

@[simp] theorem opOf_requestCode (op : BitVec 4) (sel : BitVec 2) : opOf (requestCode op sel) = op :=
  opOf_append op sel

@[simp] theorem selOf_requestCode (op : BitVec 4) (sel : BitVec 2) : selOf (requestCode op sel) = sel :=
  selOf_append op sel

/-- `op` is the code without its two lower bits. -/
theorem toNat_opOf (code : BitVec 6) : (opOf code).toNat = code.toNat / 4 := by
  revert code; decide

/-- A request decodes to an instruction, or its `op` is reserved (30_encoding.md R56, R58). -/
theorem decodeRequest_cases (p : InPorts) :
    (1 ≤ (opOf p.reqCode).toNat ∧ (opOf p.reqCode).toNat ≤ 10 ∧ ∃ i, decodeRequest p = .instr i) ∨
      (((opOf p.reqCode).toNat = 0 ∨ 10 < (opOf p.reqCode).toNat) ∧
        decodeRequest p = .reservedRequest p.reqCode) := by
  unfold decodeRequest
  split
  case h_11 =>
    refine .inr ⟨?_, rfl⟩
    simp only [imp_false] at *
    omega
  all_goals exact .inl ⟨by omega, by omega, _, rfl⟩

/-! ### Decoding and encoding are inverse -/

/-- A TX request carries its choice in `sel`, every other one its `sel` as an operand (30_encoding.md R56). -/
theorem decode_encode (i : Instr) : decode (encode i) = .instr i := by
  cases i with
  | frameCmd => exact congrArg Decoded.instr (decodeCommandFrame_append ..)
  | frameReply => exact congrArg Decoded.instr (decodeReplyFrame_append ..)
  | frameEnter | frameExit | frameZero => exact (decodeControlFrame_eq_instr _ _).2 (by simp)
  | txEnter | txExit | txZero | txCmd => simp [encode, decode, decodeRequest, requestPorts, decodeTx]
  | _ => simp [encode, decode, decodeRequest, requestPorts]

/-- Settles O1. -/
theorem decodeEncodeRoundTrip : Obligations.DecodeEncodeRoundTrip := decode_encode

/-- Settles O2, format by format. -/
theorem encodeDecodeFrames : Obligations.EncodeDecodeFrames := by
  intro fmt w i h
  cases fmt with
  | command => exact Decoded.instr.inj h ▸ encode_decodeCommandFrame w
  | reply => exact Decoded.instr.inj h ▸ encode_decodeReplyFrame w
  | control =>
    obtain ⟨rfl, rfl⟩ | ⟨rfl, rfl⟩ | ⟨rfl, rfl⟩ := (decodeControlFrame_eq_instr w i).1 h <;> rfl

/-- Settles O3: the codes of `op` 1 to 10 run from 0x04 to 0x2B. -/
theorem reservedRequestCodes : Obligations.ReservedRequestCodes := by
  intro p
  have hop := toNat_opOf p.reqCode
  simp only [decode]
  obtain ⟨hlow, hhigh, i, hi⟩ | ⟨hrange, hreserved⟩ := decodeRequest_cases p
  · simp only [hi, reduceCtorEq, Decoded.instr.injEq, exists_eq', false_iff, true_iff]
    omega
  · simp only [hreserved, reduceCtorEq, exists_false, false_iff, true_iff]
    omega

/-- Settles O4: the three patterns are the three control frames. -/
theorem onlyThreeControlFrames : Obligations.OnlyThreeControlFrames := by
  intro w
  have henter : controlFrame Config.xEnter = 0xFFFFFFFFFFFFFFFC#64 := by decide
  have hexit : controlFrame Config.xExit = 0xFFFFFFFFFFFFFFFD#64 := by decide
  have hzero : controlFrame Config.xZero = 0xFFFFFFFFFFFFFFFE#64 := by decide
  simp only [decode, decodeControlFrame_eq_instr, henter, hexit, hzero, exists_or, exists_and_left, exists_eq,
    and_true]

/-- Settles O5: each word is read bit by bit. -/
theorem opcodeWordsDecode : Obligations.OpcodeWordsDecode :=
  ⟨by decide, by decide, by decide, by decide, by decide, by decide, by decide, by decide, by decide, by decide⟩

end Sys2Proof.Machine
end

section
/-! PROOFS. The step that decodes (30_encoding.md R62): no instruction reads the agents' side, so a stimulus that is
given the next turn acts on the state it was given to; when a step completes, action by action. -/

namespace Sys2Proof.Machine

/-! ### A presented stimulus is the next step -/

/-- An outcome with its next state mapped. -/
def mapNext (f : State → State) : Host.Outcome State Fault Refusal → Host.Outcome State Fault Refusal
  | .next s => .next (f s)
  | .fault r => .fault r
  | .refused r => .refused r

theorem mapNext_mapNext (f g : State → State) (o : Host.Outcome State Fault Refusal) :
    mapNext f (mapNext g o) = mapNext (fun s => f (g s)) o := by
  cases o <;> rfl

theorem mapNext_of_fixed {f : State → State} {o : Host.Outcome State Fault Refusal}
    (h : ∀ t, o = .next t → f t = t) : mapNext f o = o := by
  cases o with
  | next t => exact congrArg Host.Outcome.next (h t rfl)
  | fault | refused => rfl

theorem advanceOutcome_eq_mapNext (o : Host.Outcome State Fault Refusal) :
    advanceOutcome o = mapNext State.advance o := by
  cases o <;> rfl

theorem State.decodeReply_withEnv (s : State) (e : Environment) (w : Frame) (len : BitVec 4) :
    State.decodeReply { s with env := e } w len = { s.decodeReply w len with env := e } := by
  rw [State.decodeReply_eq, State.decodeReply_eq]
  split <;> rfl

theorem State.receive_withEnv (s : State) (e : Environment) (w : Frame) (len : BitVec 4) :
    State.receive { s with env := e } w len = { s.receive w len with env := e } := by
  rw [State.receive_eq, State.receive_eq]
  split <;> rfl

/-- No instruction reads the agents' side. -/
theorem exec_withEnv (i : Instr) (s : State) (e : Environment) :
    exec i { s with env := e } = mapNext (fun t => { t with env := e }) (exec i s) := by
  cases i with
  | qenc | qdec => simp only [exec, execQenc, execQdec]; split <;> rfl
  | wrsp sel idx value => simp only [exec, execWrsp]; cases s.sp.write idx value <;> rfl
  | rdsp sel idx => simp only [exec, execRdsp]; cases s.sp.read idx <;> rfl
  | rdtl sel idx => simp only [exec, execRdtl]; cases s.tl.read idx <;> rfl
  | unpack => exact congrArg Host.Outcome.next (s.decodeReply_withEnv e _ _)
  | rx | frameCmd | frameReply | frameEnter | frameExit | frameZero =>
    exact congrArg Host.Outcome.next (s.receive_withEnv e _ _)
  | _ => rfl

/-- What an action does, the passing of the turn left out. -/
def Action.perform (s : State) : Action → Host.Outcome State Fault Refusal
  | .idle => .next s.idle
  | .reset => .next s.resetRegisters
  | .run i => exec i s
  | .reject r => .refused r

/-- A stimulus that is given the next turn acts on the state it was given to, and its turn passes with it. -/
theorem step_present (s : State) (a : Agent) (st : Stimulus) :
    step { s with env := s.env.present a st } = (Action.ofStimulus st).perform s := by
  have haction : State.action { s with env := s.env.present a st } = Action.ofStimulus st := by
    rw [State.action, Environment.current_present]
  have hturn := Environment.advance_present s.env a st
  rw [step, haction]
  cases Action.ofStimulus st with
  | idle => exact congrArg (fun e => Host.Outcome.next { s.idle with env := e }) hturn
  | reset => exact congrArg (fun e => Host.Outcome.next { s.resetRegisters with env := e }) hturn
  | run i =>
    show advanceOutcome (exec i { s with env := s.env.present a st }) = exec i s
    rw [exec_withEnv, advanceOutcome_eq_mapNext, mapNext_mapNext]
    refine mapNext_of_fixed fun t ht => ?_
    show { t with env := (s.env.present a st).advance } = t
    rw [hturn, ← (exec_effect ht).env_eq]
  | reject => rfl

/-! ### `sel` outside TX -/

/-- The instruction with another `sel`; TX operations and frames have none to replace. -/
def withSel (sel : BitVec 2) : Instr → Instr
  | .qenc _ value min max bits => .qenc sel value min max bits
  | .qdec _ raw min max bits => .qdec sel raw min max bits
  | .pack _ p v kp kd t => .pack sel p v kp kd t
  | .unpack _ frame len => .unpack sel frame len
  | .wrsp _ idx value => .wrsp sel idx value
  | .rdsp _ idx => .rdsp sel idx
  | .rdtl _ idx => .rdtl sel idx
  | .rx _ frame len => .rx sel frame len
  | .disc _ => .disc sel
  | i => i

/-- No meaning reads `sel` (30_encoding.md R56). -/
theorem exec_withSel (sel : BitVec 2) (i : Instr) (s : State) : exec (withSel sel i) s = exec i s := by
  cases i <;> rfl

/-- Outside TX, changing `sel` in the request changes `sel` in the instruction and nothing else. -/
theorem decodeRequest_withSel (p : InPorts) (sel : BitVec 2) (htx : opOf p.reqCode ≠ 8#4) {i : Instr}
    (h : decodeRequest p = .instr i) :
    decodeRequest { p with reqCode := opOf p.reqCode ++ sel } = .instr (withSel sel i) := by
  unfold decodeRequest at *
  rw [opOf_append, selOf_append]
  split at h
  case h_8 height => exact absurd (BitVec.eq_of_toNat_eq height) htx
  case h_11 => nomatch h
  all_goals
    obtain rfl := Decoded.instr.inj h
    rfl

/-- Settles O6: the two requests have the same action up to `sel`, and no meaning reads that. -/
theorem selIgnoredOutsideTx : Obligations.SelIgnoredOutsideTx := by
  intro s a p sel htx hlow hhigh
  obtain ⟨-, -, i, hi⟩ | ⟨hreserved, -⟩ := decodeRequest_cases p
  · have hi' := decodeRequest_withSel p sel htx hi
    rw [step_present, step_present]
    simp only [Action.ofStimulus, decode, hi, hi']
    split_ifs
    · rfl
    · exact (exec_withSel sel i s).symm
    · rfl
  · omega

/-! ### A word stored for the fetch -/

/-- A table word that decodes is a stimulus that asks for an operation: a request without reset, or a frame. -/
theorem exists_stimulus_of_decodeTableWord {nbits w : Nat} {i : Instr} (h : decodeTableWord nbits w = some i) :
    ∃ st, tableStimulus nbits w = some st ∧ decode st = .instr i := by
  unfold decodeTableWord at h
  split at h
  · cases h
  · rename_i st hst
    split at h
    · rename_i j hj
      exact ⟨st, hst, hj.trans (congrArg Decoded.instr (Option.some.inj h))⟩
    · cases h
    · cases h

/-- A request of the table is presented as a request and without `rst` (30_encoding.md R62). -/
theorem ports_of_tableStimulus {nbits w : Nat} {p : InPorts} (h : tableStimulus nbits w = some (.request p)) :
    p.reqValid = true ∧ p.rst = false := by
  unfold tableStimulus at h
  split_ifs at h
  · cases h; exact ⟨rfl, rfl⟩
  · nomatch h

/-- Storing a word gives its presenter the next turn. -/
theorem withFetchWord_eq {nbits w : Nat} {st : Stimulus} (h : tableStimulus nbits w = some st) (s : State) :
    s.withFetchWord nbits w = { s with env := s.env.present (presenterOf st) st } := by
  simp [State.withFetchWord, h]

theorem presents_withFetchWord {nbits w : Nat} {st : Stimulus} (h : tableStimulus nbits w = some st) (s : State) :
    presents (s.withFetchWord nbits w) st := by
  rw [withFetchWord_eq h]
  refine ⟨Environment.current_present _ _ _, ?_⟩
  rintro p rfl
  exact ports_of_tableStimulus h

/-- Settles O8: the stored word is presented, so the step runs it (O7), and its turn passes with it. -/
theorem fetchWordRunsNext : Obligations.FetchWordRunsNext := by
  intro s nbits w i h
  obtain ⟨st, hst, hdecode⟩ := exists_stimulus_of_decodeTableWord h
  obtain ⟨hnext, -, hrefused⟩ := stepRunsDecodedInstruction _ st i (presents_withFetchWord hst s) hdecode
  refine ⟨⟨fun t ht => ?_, hrefused⟩, ?_⟩
  · have henv : t.env.advance = s.env := by
      rw [(exec_effect ht).env_eq, withFetchWord_eq hst]
      exact Environment.advance_present _ _ _
    rw [hnext t ht, henv]
  · rw [withFetchWord_eq hst]
    exact ⟨rfl, rfl, rfl⟩

/-! ### When a step completes -/

/-- An instruction completes exactly inside the block's contract (40_quantizer.md R76;
43_register_and_session_ops.md R117). -/
theorem exec_completes_iff (i : Instr) (s : State) : (∃ t, exec i s = .next t) ↔ WellFormed i = true := by
  cases i with
  | qenc sel value min max bits => cases h : inContract min max bits <;> simp [exec, execQenc, WellFormed, h]
  | qdec sel raw min max bits => cases h : inContract min max bits <;> simp [exec, execQdec, WellFormed, h]
  | wrsp sel idx value =>
    cases h : setpointChannel idx <;> simp [exec, execWrsp, Setpoints.write, WellFormed, h]
  | rdsp sel idx => cases h : setpointChannel idx <;> simp [exec, execRdsp, Setpoints.read, WellFormed, h]
  | rdtl sel idx =>
    simp only [exec, execRdtl, Telemetry.read_eq, WellFormed, telemetryChannel_eq]
    split_ifs <;> simp
  | _ => exact iff_of_true ⟨_, rfl⟩ rfl

/-- A step completes exactly where its action does: it rejects nothing, and runs only what completes. -/
theorem step_completes_iff (s : State) :
    (∃ t, step s = .next t) ↔
      s.action = .idle ∨ s.action = .reset ∨ ∃ i, s.action = .run i ∧ WellFormed i = true := by
  constructor
  · rintro ⟨t, h⟩
    obtain ⟨hact, -⟩ | ⟨hact, -⟩ | ⟨i, u, hact, hexec, -⟩ := step_next h
    · exact .inl hact
    · exact .inr (.inl hact)
    · exact .inr (.inr ⟨i, hact, (exec_completes_iff i s).1 ⟨u, hexec⟩⟩)
  · rintro (hact | hact | ⟨i, hact, hwf⟩)
    · exact ⟨_, by rw [step, hact]⟩
    · exact ⟨_, by rw [step, hact]⟩
    · obtain ⟨u, hexec⟩ := (exec_completes_iff i s).2 hwf
      exact ⟨u.advance, by rw [step_of_action_run hact, hexec]; rfl⟩

/-- What is presented is an operation, or ports with `rst` or without a request. -/
theorem presents_or_no_request {s : State} {st : Stimulus} (h : s.env.current = some st) :
    presents s st ∨ ∃ p, s.env.current = some (.request p) ∧ (p.rst = true ∨ p.reqValid = false) := by
  cases st with
  | frame => exact .inl ⟨h, nofun⟩
  | request p =>
    by_cases hp : p.reqValid = true ∧ p.rst = false
    · exact .inl ⟨h, fun q hq => Stimulus.request.inj hq ▸ hp⟩
    · exact .inr ⟨p, h, by cases hrst : p.rst <;> simp_all⟩

/-- Without an operation the step has nothing to run and nothing to reject. -/
theorem action_of_no_request {s : State} {p : InPorts} (h : s.env.current = some (.request p))
    (hp : p.rst = true ∨ p.reqValid = false) : s.action = .idle ∨ s.action = .reset := by
  simp only [State.action, h, Action.ofStimulus]
  obtain hrst | hvalid := hp
  · exact .inr (if_pos hrst)
  · cases p.rst
    · exact .inl (by simp [hvalid])
    · exact .inr rfl

theorem ofDecoded_ne_idle (d : Decoded) : Action.ofDecoded d ≠ .idle := by
  cases d <;> exact nofun

theorem ofDecoded_ne_reset (d : Decoded) : Action.ofDecoded d ≠ .reset := by
  cases d <;> exact nofun

/-- What an operation decodes to is what the step runs. -/
theorem action_of_presents_eq_run {s : State} {st : Stimulus} {i : Instr} (h : presents s st) :
    s.action = .run i ↔ decode st = .instr i := by
  rw [action_of_presents h]
  cases decode st <;> simp [Action.ofDecoded]

/-- Settles O11: nothing presented, no operation presented, or an operation; only the last has something to run. -/
theorem stepCompletesExactly : Obligations.StepCompletesExactly := by
  intro s
  rw [step_completes_iff]
  constructor
  · intro h
    cases hcurrent : s.env.current with
    | none => exact .inl rfl
    | some st =>
      obtain hpresents | hquiet := presents_or_no_request hcurrent
      · obtain hidle | hreset | ⟨i, hrun, hwf⟩ := h
        · exact absurd ((action_of_presents hpresents).symm.trans hidle) (ofDecoded_ne_idle _)
        · exact absurd ((action_of_presents hpresents).symm.trans hreset) (ofDecoded_ne_reset _)
        · exact .inr (.inr ⟨st, i, hpresents, (action_of_presents_eq_run hpresents).1 hrun, hwf⟩)
      · exact .inr (.inl (hcurrent ▸ hquiet))
  · rintro (hnone | ⟨p, hp, hquiet⟩ | ⟨st, i, hpresents, hdecode, hwf⟩)
    · exact .inl (by rw [State.action, hnone])
    · exact (action_of_no_request hp hquiet).imp_right .inl
    · exact .inr (.inr ⟨i, (action_of_presents_eq_run hpresents).2 hdecode, hwf⟩)

end Sys2Proof.Machine
end

section
/-! PROOFS. Arriving frames (60_exceptions.md R136; log entry 3): the byte equations of 30_encoding.md R51 cut the
fields where R50 lays them, so what a frame publishes is read off its decoding as a reply frame. -/

namespace Sys2Proof.Machine

/-! ### The fields a reply is decoded from -/


/-- A cut out of a cut is one cut. -/
theorem extract_extract {k : Nat} (w : BitVec k) (s : Nat) {n t m : Nat} (h : t + m ≤ n) :
    (w.extractLsb' s n).extractLsb' t m = w.extractLsb' (s + t) m := by
  ext i hi
  simp [Nat.add_assoc, show t + i < n by omega]

/-- A high part over a low part, each widened first, is their concatenation. -/
theorem shiftLeft_or_eq_append {a b : Nat} (x : BitVec a) (y : BitVec b) :
    x.setWidth (a + b) <<< b ||| y.setWidth (a + b) = x ++ y := by
  rw [BitVec.append_def, BitVec.shiftLeftZeroExtend_eq, BitVec.setWidth'_eq]

/-- The byte equation of R51 cuts the position out where R50 lays it. -/
theorem positionRaw_eq (w : Frame) : positionRaw w = w.extractLsb' 40 16 :=
  calc positionRaw w = frameByte w 1 ++ frameByte w 2 := shiftLeft_or_eq_append (frameByte w 1) (frameByte w 2)
    _ = w.extractLsb' 40 16 := BitVec.extractLsb'_append_extractLsb'_eq_extractLsb' rfl

theorem shiftRight_four_eq_nibble (b : Byte) : b.setWidth 12 >>> 4 = (b.extractLsb' 4 4).setWidth 12 := by
  revert b; decide

theorem and_fifteen_eq_nibble (b : Byte) : b.setWidth 12 &&& 0xF#12 = (b.extractLsb' 0 4).setWidth 12 := by
  revert b; decide

/-- The byte equation of R51 cuts the velocity out where R50 lays it. -/
theorem velocityRaw_eq (w : Frame) : velocityRaw w = w.extractLsb' 28 12 :=
  calc velocityRaw w = frameByte w 3 ++ (frameByte w 4).extractLsb' 4 4 := by
        rw [velocityRaw, shiftRight_four_eq_nibble]
        exact shiftLeft_or_eq_append (frameByte w 3) ((frameByte w 4).extractLsb' 4 4)
    _ = w.extractLsb' 32 8 ++ w.extractLsb' 28 4 := by
        rw [frameByte, frameByte, extract_extract w _ (by decide)]
    _ = w.extractLsb' 28 12 := BitVec.extractLsb'_append_extractLsb'_eq_extractLsb' rfl

/-- The byte equation of R51 cuts the torque out where R50 lays it. -/
theorem torqueRaw_eq (w : Frame) : torqueRaw w = w.extractLsb' 16 12 :=
  calc torqueRaw w = (frameByte w 4).extractLsb' 0 4 ++ frameByte w 5 := by
        rw [torqueRaw, and_fifteen_eq_nibble]
        exact shiftLeft_or_eq_append ((frameByte w 4).extractLsb' 0 4) (frameByte w 5)
    _ = w.extractLsb' 24 4 ++ w.extractLsb' 16 8 := by
        rw [frameByte, frameByte, extract_extract w _ (by decide)]
    _ = w.extractLsb' 16 12 := BitVec.extractLsb'_append_extractLsb'_eq_extractLsb' rfl

/-- What a frame is decoded to as a reply, from the fields of the reply format. -/
theorem replyOf_of_decodeReplyFrame {w : Frame} {id : Byte} {pos : BitVec 16} {vel trq : BitVec 12}
    {ignored : BitVec 16} (h : decodeReplyFrame w = .frameReply id pos vel trq ignored) :
    replyOf w = { id := id
                  p := decodeWith (Config.range .position) pos
                  v := decodeWith (Config.range .velocity) (vel.setWidth 16)
                  t := decodeWith replyTorqueRange (trq.setWidth 16) } := by
  obtain ⟨rfl, rfl, rfl, rfl, -⟩ := Instr.frameReply.inj h
  rw [replyOf, positionRaw_eq, velocityRaw_eq, torqueRaw_eq]
  rfl

/-- Above its code byte a control frame has no bit but ones (30_encoding.md R52). -/
theorem extract_controlFrame (x : Byte) {k n : Nat} (h : 8 ≤ k) :
    (controlFrame x).extractLsb' k n = (0xFFFFFFFFFFFFFF#56).extractLsb' (k - 8) n :=
  extract_append_high _ x k n h

/-- A control frame read as a reply has every code at its last value, whatever its code byte. -/
theorem decodeReplyFrame_controlFrame (x : Byte) :
    decodeReplyFrame (controlFrame x) =
      .frameReply 0xFF#8 0xFFFF#16 0xFFF#12 0xFFF#12 ((controlFrame x).extractLsb' 0 16) := by
  unfold decodeReplyFrame
  rw [extract_controlFrame x (k := 56) (by decide), extract_controlFrame x (k := 40) (by decide),
    extract_controlFrame x (k := 28) (by decide), extract_controlFrame x (k := 16) (by decide)]
  rfl

/-- The last code decodes to the upper end of the range (40_quantizer.md R73). -/
theorem DecodesOnto.decodeWith_last {r : PhysicalRange} {n : Nat} (h : DecodesOnto r n) {raw : BitVec 16}
    (hraw : raw.toNat = n) : decodeWith r raw = r.max := by
  simp [decodeWith, qdecValue, h.steps, hraw, h.high_end]

theorem replyOf_controlFrame (x : Byte) :
    replyOf (controlFrame x) = { id := 0xFF#8, p := (Config.range .position).max,
                                 v := (Config.range .velocity).max, t := replyTorqueRange.max } := by
  rw [replyOf_of_decodeReplyFrame (decodeReplyFrame_controlFrame x), decodesOnto_position.decodeWith_last rfl,
    decodesOnto_velocity.decodeWith_last rfl, decodesOnto_replyTorque.decodeWith_last rfl]

/-- A command frame misread as a reply gives the upper byte of its position as id (41_frame_codec.md R91). -/
theorem replyOf_commandFrame_id (pos : BitVec 16) (vel kp kd trq : BitVec 12) :
    (replyOf (pos ++ vel ++ kp ++ kd ++ trq)).id = pos.extractLsb' 8 8 := by
  obtain ⟨hpos, -⟩ := extract_append_five pos vel kp kd trq
  conv_rhs => rw [← hpos, extract_extract _ _ (by decide)]
  rfl

/-! ### The ranges a reply is decoded with, written out (10_state.md R17; 41_frame_codec.md R87) -/

theorem decodeWith_position (raw : BitVec 16) : decodeWith (Config.range .position) raw =
    qdecValue raw 0xC029000000000000#64 0x4029000000000000#64 16#5 := rfl

theorem decodeWith_velocity (raw : BitVec 16) : decodeWith (Config.range .velocity) raw =
    qdecValue raw 0xC020000000000000#64 0x4020000000000000#64 12#5 := rfl

theorem decodeWith_replyTorque (raw : BitVec 16) : decodeWith replyTorqueRange raw =
    qdecValue raw 0xC062000000000000#64 0x4062000000000000#64 12#5 := by
  have hrange : replyTorqueRange =
      { min := 0xC062000000000000#64, max := 0x4062000000000000#64, bits := 12#5 } := by decide
  rw [hrange, decodeWith]

/-! ### What an arriving frame publishes -/

/-- An instruction that is encoded as a frame is the receive of that frame's 8 bytes (log entry 3). -/
theorem exec_of_encode_frame {i : Instr} {fmt : FrameFormat} {w : Frame} (h : encode i = .frame fmt w) (s : State) :
    exec i s = .next (s.receive w 8#4) := by
  have hbits : frameBits i = w := by rw [frameBits, h]
  cases i with
  | frameCmd | frameReply | frameEnter | frameExit | frameZero => exact hbits ▸ rfl
  | _ => nomatch h

/-- With all its 8 bytes a frame is published; its id is answered and not stored (43_register_and_session_ops.md
R114). -/
theorem receive_eight (s : State) (w : Frame) {r : Reply} (hr : replyOf w = r) :
    s.receive w 8#4 = { s with
      tl := { position := r.p, velocity := r.v, torque := r.t },
      out := { status := some .ok, idOut := some r.id, pOut := some r.p, vOut := some r.v,
               tOut := some r.t } } := by
  rw [State.receive_eq, if_neg (by decide), hr]
  rfl

/-- Settles O48: every frame row is the receive of its bits (O2), and what that publishes is `replyOf` of them. -/
theorem arrivingFramesArePublished : Obligations.ArrivingFramesArePublished := by
  intro sel s
  refine ⟨fun fmt w i h => ?_, fun pos vel kp kd trq => ?_, fun id pos vel trq ignored => ?_, fun i hi => ?_⟩
  · exact exec_of_encode_frame (encodeDecodeFrames fmt w i h) s
  · refine ⟨_, exec_of_encode_frame rfl s, rfl, s.receive_sp _ _, ?_⟩
    rw [receive_eight s _ rfl]
    exact congrArg some (replyOf_commandFrame_id pos vel kp kd trq)
  · rw [exec_of_encode_frame rfl,
      receive_eight s _ (replyOf_of_decodeReplyFrame (decodeReplyFrame_append id pos vel trq ignored)),
      decodeWith_position, decodeWith_velocity, decodeWith_replyTorque]
  · have hframe : ∃ x, encode i = .frame .control (controlFrame x) := by
      obtain rfl | rfl | rfl := hi <;> exact ⟨_, rfl⟩
    obtain ⟨x, hx⟩ := hframe
    rw [exec_of_encode_frame hx, receive_eight s _ (replyOf_controlFrame x)]
    rfl

end Sys2Proof.Machine
end

section
/-! PROOFS. The quantizer (40_quantizer.md): QENC and QDEC are their formulas inside the contract; QENC is a chain of
monotone operations, and the roundings cannot lift its greatest value, the code of `max`, past the last code. -/

namespace Sys2Proof.Machine

/-! ### The width and the contract -/

theorem stepsOf_eq_some (bits : BitVec 5) (n : Nat) : stepsOf bits = some n ↔ supportedWidth bits n := by
  rw [stepsOf_eq, supportedWidth]
  split_ifs with h12 h16
  · simp [h12, eq_comm]
  · simp [h16, eq_comm]
  · simp [h12, h16]

theorem stepsOf_of_unsupported {bits : BitVec 5} (h12 : bits ≠ 12#5) (h16 : bits ≠ 16#5) : stepsOf bits = none := by
  rw [stepsOf_eq, if_neg h12, if_neg h16]

/-- The contract the model checks is the one R76 states. -/
theorem inContract_iff (lo hi : F64) (bits : BitVec 5) : inContract lo hi bits = true ↔ rangeContract lo hi bits := by
  unfold inContract rangeContract
  simp only [← stepsOf_eq_some]
  cases stepsOf bits with
  | none => simp
  | some n => simp [rangeOk, and_assoc]

/-- Outside the supported widths the contract asks nothing (40_quantizer.md R69, R75). -/
theorem inContract_of_stepsOf_none {bits : BitVec 5} (h : stepsOf bits = none) (lo hi : F64) :
    inContract lo hi bits = true := by
  rw [inContract, h]

/-! ### What QENC and QDEC answer -/

theorem exec_qenc_of_inContract {lo hi : F64} {bits : BitVec 5} (h : inContract lo hi bits = true) (sel : BitVec 2)
    (value : F64) (s : State) : exec (.qenc sel value lo hi bits) s =
      .next { s with out := { status := some .ok, rawOut := some (qencRaw value lo hi bits) } } :=
  if_pos h

theorem exec_qdec_of_inContract {lo hi : F64} {bits : BitVec 5} (h : inContract lo hi bits = true) (sel : BitVec 2)
    (raw : BitVec 16) (s : State) : exec (.qdec sel raw lo hi bits) s =
      .next { s with out := { status := some .ok, fOut := some (qdecValue raw lo hi bits) } } :=
  if_pos h

theorem qencRaw_of_stepsOf_none {bits : BitVec 5} (h : stepsOf bits = none) (value lo hi : F64) :
    qencRaw value lo hi bits = 0#16 := by
  simp [qencRaw, h]

theorem qencRaw_of_supportedWidth {bits : BitVec 5} {n : Nat} (h : supportedWidth bits n) (value lo hi : F64) :
    qencRaw value lo hi bits = BitVec.ofNat 16 (quantize value lo hi n) := by
  rw [qencRaw, (stepsOf_eq_some bits n).2 h]

theorem qdecValue_of_stepsOf_none {bits : BitVec 5} (h : stepsOf bits = none) (raw : BitVec 16) (lo hi : F64) :
    qdecValue raw lo hi bits = 0x0000000000000000#64 := by
  simp [qdecValue, h]

theorem qdecValue_of_supportedWidth {bits : BitVec 5} {n : Nat} (h : supportedWidth bits n) (raw : BitVec 16)
    (lo hi : F64) : qdecValue raw lo hi bits = dequantize raw.toNat lo hi n := by
  rw [qdecValue, (stepsOf_eq_some bits n).2 h]

/-- Settles O18: the contract R76 states is the one `execQenc` checks. -/
theorem qencResult : Obligations.QencResult := by
  intro sel value lo hi bits n s hwidth hcontract
  refine ⟨exec_qenc_of_inContract ((inContract_iff lo hi bits).2 hcontract) sel value s, ?_⟩
  rw [qencRaw_of_supportedWidth hwidth, quantize, apply_ite (BitVec.ofNat 16)]
  rfl

/-- Settles O19: the contract R76 states is the one `execQdec` checks. -/
theorem qdecResult : Obligations.QdecResult :=
  fun sel raw lo hi bits _ s hwidth hcontract =>
    ⟨exec_qdec_of_inContract ((inContract_iff lo hi bits).2 hcontract) sel raw s,
      qdecValue_of_supportedWidth hwidth raw lo hi⟩

/-- Settles O20: an unsupported width is answered before the contract is looked at (log entry 7). -/
theorem unsupportedWidthsGiveZero : Obligations.UnsupportedWidthsGiveZero := by
  intro sel value lo hi raw bits s h12 h16
  have hnone := stepsOf_of_unsupported h12 h16
  have hin := inContract_of_stepsOf_none hnone lo hi
  rw [exec_qenc_of_inContract hin, exec_qdec_of_inContract hin, qencRaw_of_stepsOf_none hnone,
    qdecValue_of_stepsOf_none hnone]
  exact ⟨rfl, rfl⟩

/-- Settles O21: the contract is checked before the value is looked at (log entry 7). -/
theorem rangeOutsideContractRefused : Obligations.RangeOutsideContractRefused :=
  fun _ _ lo hi _ bits _ hcontract =>
    have hout := mt (inContract_iff lo hi bits).1 hcontract
    ⟨if_neg hout, if_neg hout⟩

/-! ### The magnitude of each operation -/

theorem fval_le_of_fkey_le {a b : F64} (h : fkey a ≤ fkey b) : fval a ≤ fval b :=
  not_lt.1 (mt (fkey_lt_iff b a).2 (not_lt.2 h))

theorem fmag_fsub_of_isFinite {a b : F64} (ha : isFinite a = true) (hb : isFinite b = true) :
    fmag (fsub a b) = roundMag (fval a - fval b).natAbs 1 := by
  obtain ⟨neg, n, hval, hadd⟩ := fadd_of_isFinite ha ((isFinite_fneg b).trans hb)
  have hn : (fval a - fval b).natAbs = n := by
    rw [sub_eq_add_neg, ← fval_fneg, hval]
    cases neg <;> simp
  rw [fsub, hadd, fmag_ofMag (roundMag_lt _ _), hn]

theorem fmag_fmul_of_isFinite {a b : F64} (ha : isFinite a = true) (hb : isFinite b = true) :
    fmag (fmul a b) = roundMag (units (fmag a) * units (fmag b)) oneUnits := by
  rw [fmul_of_isFinite ha hb, fmag_ofMag (roundMag_lt _ _)]

theorem fmag_fdiv_of_isFinite {a b : F64} (ha : isFinite a = true) (hb : isFinite b = true) (h0 : fmag b ≠ 0) :
    fmag (fdiv a b) = roundMag (units (fmag a) * oneUnits) (units (fmag b)) := by
  rw [fdiv_of_isFinite ha hb h0, fmag_ofMag (roundMag_lt _ _)]

/-- A value that is not 0 has a magnitude of at least one unit. -/
theorem units_pos {m : Nat} (h : m ≠ 0) : 0 < units m := units_zero ▸ units_lt.2 (Nat.pos_of_ne_zero h)

/-- The difference grows with its first operand, from the second operand on. -/
theorem fmag_fsub_mono {x y c : F64} (hx : isFinite x = true) (hy : isFinite y = true) (hc : isFinite c = true)
    (hcx : fkey c ≤ fkey x) (hxy : fkey x ≤ fkey y) : fmag (fsub x c) ≤ fmag (fsub y c) := by
  rw [fmag_fsub_of_isFinite hx hc, fmag_fsub_of_isFinite hy hc]
  have hlow := fval_le_of_fkey_le hcx
  have hhigh := fval_le_of_fkey_le hxy
  exact roundMag_monotone one_pos (by omega : (fval x - fval c).natAbs ≤ (fval y - fval c).natAbs)

theorem fmag_fmul_mono {x y b : F64} (hx : isFinite x = true) (hy : isFinite y = true) (hb : isFinite b = true)
    (h : fmag x ≤ fmag y) : fmag (fmul x b) ≤ fmag (fmul y b) := by
  rw [fmag_fmul_of_isFinite hx hb, fmag_fmul_of_isFinite hy hb]
  exact roundMag_monotone oneUnits_pos (Nat.mul_le_mul_right _ (units_le.2 h))

theorem fmag_fdiv_mono {x y b : F64} (hx : isFinite x = true) (hy : isFinite y = true) (hb : isFinite b = true)
    (h0 : fmag b ≠ 0) (h : fmag x ≤ fmag y) : fmag (fdiv x b) ≤ fmag (fdiv y b) := by
  rw [fmag_fdiv_of_isFinite hx hb h0, fmag_fdiv_of_isFinite hy hb h0]
  exact roundMag_monotone (units_pos h0) (Nat.mul_le_mul_right _ (units_le.2 h))

theorem ftrunc_mono {x y : F64} (h : fmag x ≤ fmag y) : ftrunc x ≤ ftrunc y :=
  Nat.div_le_div_right (units_le.2 h)

/-- Only a finite factor has a finite product with a finite value other than 0. -/
theorem isFinite_of_isFinite_fmul {a b : F64} (ha : isNaN a = false) (hb : isFinite b = true) (h0 : fmag b ≠ 0)
    (h : isFinite (fmul a b) = true) : isFinite a = true := by
  by_contra hna
  have hnan : ¬ infMag < fmag a := of_decide_eq_false ha
  have hinf : fmag a = infMag := by
    have := mt (isFinite_iff a).2 hna
    omega
  have hprod : fmul a b = ofMag (fsign a != fsign b) infMag := by
    simp [fmul, ha, isNaN_of_isFinite hb, isInf, hinf, h0, show infMag ≠ 0 by decide]
  rw [hprod, isFinite_iff, fmag_ofMag (by decide)] at h
  exact lt_irrefl _ h

theorem units_fmag_u2f {n : Nat} (h : n < 2 ^ 53) : units (fmag (u2f n)) = n * oneUnits := by
  have hval := (u2f_exact h).2
  rw [fval_eq_signed, u2f, fsign_ofMag (roundMag_lt _ _), signed_false, ← oneUnits_cast, ← u2f] at hval
  exact_mod_cast hval

/-! ### How far rounding can lift a quotient -/

/-- Rounding lifts a quotient by at most half a unit, or else by at most one part in 2^53. -/
theorem units_roundMag_le (n : Nat) {d : Nat} (hd : 0 < d) :
    2 * (d * units (roundMag n d)) ≤ 2 * n + d ∨ 2 ^ 53 * (d * units (roundMag n d)) ≤ (2 ^ 53 + 1) * n := by
  have hcut : d * units (roundMag n d) ≤ d * units (roundUnbounded n d) :=
    Nat.mul_le_mul_left d (units_le.2 (Nat.min_le_right _ _))
  have hhalf := (roundHalfEven_off_le_half n (d := d * 2 ^ roundExponent n d) (by positivity)).1
  rw [← offBy_mul, ← units_roundUnbounded] at hhalf
  unfold offBy at hhalf
  rw [← Nat.cast_mul] at hhalf
  rcases Nat.eq_zero_or_pos (roundExponent n d) with hzero | hpos
  · rw [hzero, pow_zero, mul_one] at hhalf
    exact .inl (by omega)
  · have hspacing : 2 ^ 52 * (d * 2 ^ roundExponent n d) ≤ n :=
      calc 2 ^ 52 * (d * 2 ^ roundExponent n d) = d * (2 ^ 52 * 2 ^ roundExponent n d) := by ring
        _ ≤ d * (n / d) := Nat.mul_le_mul_left d ((roundExponent_bounds n d).2 hpos)
        _ ≤ n := Nat.mul_div_le n d
    exact .inr (by omega)

/-- The rounded product with an integer of at most 52 bits is at most half the other factor too great. -/
theorem two_mul_units_roundMag_mul_le (s : Nat) {n : Nat} (hn : n ≤ 2 ^ 52) :
    2 * units (roundMag (s * (n * oneUnits)) oneUnits) ≤ s * (2 * n + 1) := by
  have hpart : 2 * (s * n) ≤ 2 ^ 53 * s := by nlinarith
  have hexpand : s * (2 * n + 1) = 2 * (s * n) + s := by ring
  have hlift := units_roundMag_le (s * (n * oneUnits)) oneUnits_pos
  generalize units (roundMag (s * (n * oneUnits)) oneUnits) = p at *
  rw [hexpand]
  rcases hlift with hunit | hrel
  · have : 2 * p ≤ 2 * (s * n) + 1 := Nat.le_of_mul_le_mul_left (by linarith) oneUnits_pos
    omega
  · have : 2 ^ 53 * p ≤ (2 ^ 53 + 1) * (s * n) := Nat.le_of_mul_le_mul_left (by linarith) oneUnits_pos
    omega

/-- A quotient at most one half above a small integer is not rounded up to the next integer. -/
theorem units_roundMag_div_lt {p s n : Nat} (hs : 0 < s) (hn : n < 2 ^ 52) (h : 2 * p ≤ s * (2 * n + 1)) :
    units (roundMag (p * oneUnits) s) < (n + 1) * oneUnits := by
  have hone : 1 < oneUnits := by
    unfold oneUnits
    exact one_lt_pow₀ one_lt_two (Nat.succ_ne_zero 1073)
  have hlift := units_roundMag_le (p * oneUnits) hs
  generalize units (roundMag (p * oneUnits) s) = c at *
  have hscaled : 2 * (p * oneUnits) ≤ s * ((2 * n + 1) * oneUnits) := by nlinarith
  rcases hlift with hunit | hrel
  · have : 2 * c ≤ (2 * n + 1) * oneUnits + 1 := Nat.le_of_mul_le_mul_left (by linarith) hs
    linarith
  · have hc : 2 ^ 54 * c ≤ (2 ^ 53 + 1) * ((2 * n + 1) * oneUnits) := Nat.le_of_mul_le_mul_left (by linarith) hs
    have hsmall : (2 * n + 1) * oneUnits < 2 ^ 53 * oneUnits := Nat.mul_lt_mul_of_pos_right (by omega) oneUnits_pos
    linarith

/-! ### QENC inside the contract -/

/-- What the contract gives at `n` steps (40_quantizer.md R76). -/
structure QuantizesOver (lo hi : F64) (n : Nat) : Prop where
  steps_lt : n < 2 ^ 16
  steps_finite : isFinite (u2f n) = true
  lo_finite : isFinite lo = true
  hi_finite : isFinite hi = true
  lo_lt_hi : fkey lo < fkey hi
  span_finite : isFinite (fsub hi lo) = true
  span_ne_zero : fmag (fsub hi lo) ≠ 0
  product_finite : isFinite (fmul (fsub hi lo) (u2f n)) = true

theorem flt_eq_true_iff (a b : F64) : flt a b = true ↔ isNaN a = false ∧ isNaN b = false ∧ fkey a < fkey b := by
  simp [flt, and_assoc]

theorem fmag_fsub_ne_zero {lo hi : F64} (hlo : isFinite lo = true) (hhi : isFinite hi = true)
    (hlt : fkey lo < fkey hi) : fmag (fsub hi lo) ≠ 0 := by
  have hval := (fkey_lt_iff lo hi).1 hlt
  have hunit : roundMag 1 1 = 1 := by decide
  have hmono := roundMag_monotone one_pos (by omega : 1 ≤ (fval hi - fval lo).natAbs)
  rw [fmag_fsub_of_isFinite hhi hlo]
  simp only [hunit] at hmono
  omega

theorem quantizesOver_of_contract {lo hi : F64} {bits : BitVec 5} {n : Nat} (hwidth : supportedWidth bits n)
    (h : rangeContract lo hi bits) : QuantizesOver lo hi n := by
  obtain ⟨hlo, hhi, hlt, hprod⟩ := h n hwidth
  obtain ⟨-, -, hkey⟩ := (flt_eq_true_iff lo hi).1 hlt
  have hn : 0 < n ∧ n < 2 ^ 16 := by
    obtain ⟨-, rfl⟩ | ⟨-, rfl⟩ := hwidth <;> decide
  have hfin := (u2f_exact (hn.2.trans (by decide))).1
  have hn0 : fmag (u2f n) ≠ 0 := by
    intro hz
    have hunits := units_fmag_u2f (hn.2.trans (by decide))
    rw [hz, units_zero] at hunits
    exact (Nat.mul_pos hn.1 oneUnits_pos).ne hunits
  have hspan : isNaN (fsub hi lo) = false := by
    rw [isNaN, fmag_fsub_of_isFinite hhi hlo]
    exact decide_eq_false (roundMag_le_infMag _ _).not_gt
  exact { steps_lt := hn.2, steps_finite := hfin, lo_finite := hlo, hi_finite := hhi, lo_lt_hi := hkey
          span_finite := isFinite_of_isFinite_fmul hspan hfin hn0 hprod
          span_ne_zero := fmag_fsub_ne_zero hlo hhi hkey
          product_finite := hprod }

section
variable {lo hi : F64} {n : Nat}

/-- The product under the quotient is finite for every value in the range. -/
theorem QuantizesOver.product_finite_of_between (h : QuantizesOver lo hi n) {v : F64} (hlo : fkey lo ≤ fkey v)
    (hhi : fkey v ≤ fkey hi) : isFinite (fsub v lo) = true ∧ isFinite (fmul (fsub v lo) (u2f n)) = true := by
  have hv := isFinite_of_fkey_between h.lo_finite h.hi_finite hlo hhi
  have hsub := fmag_fsub_mono hv h.hi_finite h.lo_finite hlo hhi
  have hfin := (isFinite_iff _).2 (hsub.trans_lt ((isFinite_iff _).1 h.span_finite))
  have hmul := fmag_fmul_mono hfin h.span_finite h.steps_finite hsub
  exact ⟨hfin, (isFinite_iff _).2 (hmul.trans_lt ((isFinite_iff _).1 h.product_finite))⟩

/-- Each of the four operations and the truncation is monotone (40_quantizer.md R71). -/
theorem QuantizesOver.ftrunc_quotientOf_mono (h : QuantizesOver lo hi n) {x y : F64} (hlo : fkey lo ≤ fkey x)
    (hxy : fkey x ≤ fkey y) (hhi : fkey y ≤ fkey hi) :
    ftrunc (quotientOf x lo hi n) ≤ ftrunc (quotientOf y lo hi n) := by
  obtain ⟨hsubx, hmulx⟩ := h.product_finite_of_between hlo (hxy.trans hhi)
  obtain ⟨hsuby, hmuly⟩ := h.product_finite_of_between (hlo.trans hxy) hhi
  have hx := isFinite_of_fkey_between h.lo_finite h.hi_finite hlo (hxy.trans hhi)
  have hy := isFinite_of_fkey_between h.lo_finite h.hi_finite (hlo.trans hxy) hhi
  have hsub := fmag_fsub_mono hx hy h.lo_finite hlo hxy
  have hmul := fmag_fmul_mono hsubx hsuby h.steps_finite hsub
  exact ftrunc_mono (fmag_fdiv_mono hmulx hmuly h.span_finite h.span_ne_zero hmul)

/-- The lower end has code 0: its difference is an exact zero. -/
theorem QuantizesOver.ftrunc_quotientOf_lo (h : QuantizesOver lo hi n) : ftrunc (quotientOf lo lo hi n) = 0 := by
  obtain ⟨hsub, hmul⟩ := h.product_finite_of_between le_rfl h.lo_lt_hi.le
  have hzero : fmag (quotientOf lo lo hi n) = 0 := by
    rw [quotientOf, fmag_fdiv_of_isFinite hmul h.span_finite h.span_ne_zero,
      fmag_fmul_of_isFinite hsub h.steps_finite, fmag_fsub_of_isFinite h.lo_finite h.lo_finite]
    simp [roundMag_zero, units_zero]
  rw [ftrunc, hzero, units_zero, Nat.zero_div]

/-- The upper end has at most the last code: the product and the quotient are each rounded up too little to reach the
next one. -/
theorem QuantizesOver.ftrunc_quotientOf_hi_le (h : QuantizesOver lo hi n) : ftrunc (quotientOf hi lo hi n) ≤ n := by
  have hn : n < 2 ^ 52 := h.steps_lt.trans (by decide)
  have hprod := two_mul_units_roundMag_mul_le (units (fmag (fsub hi lo))) hn.le
  have hquot := units_roundMag_div_lt (units_pos h.span_ne_zero) hn hprod
  rw [← units_fmag_u2f (hn.trans (by decide)), ← fmag_fmul_of_isFinite h.span_finite h.steps_finite,
    ← fmag_fdiv_of_isFinite h.product_finite h.span_finite h.span_ne_zero] at hquot
  exact Nat.le_of_lt_succ ((Nat.div_lt_iff_lt_mul oneUnits_pos).2 hquot)

/-! ### The clamp -/

theorem clampTo_of_flt {v : F64} (h : flt v lo = true) : clampTo v lo hi = lo := if_pos h

/-- The clamp of a value that is no NaN, in the order of the values. -/
theorem QuantizesOver.fkey_clampTo (h : QuantizesOver lo hi n) {v : F64} (hv : isNaN v = false) :
    fkey (clampTo v lo hi) = max (fkey lo) (min (fkey v) (fkey hi)) := by
  have hlo := isNaN_of_isFinite h.lo_finite
  have hhi := isNaN_of_isFinite h.hi_finite
  have hlt := h.lo_lt_hi
  simp only [clampTo, fgt, flt_eq_true_iff, hv, hlo, hhi, true_and]
  split_ifs <;> omega

theorem QuantizesOver.clampTo_lo (h : QuantizesOver lo hi n) : clampTo lo lo hi = lo := by
  simp [clampTo, fgt, flt_eq_false_of_fkey_le h.lo_lt_hi.le]

theorem QuantizesOver.clampTo_of_fgt (h : QuantizesOver lo hi n) {v : F64} (hv : fgt v hi = true) :
    clampTo v lo hi = hi := by
  obtain ⟨-, -, hkey⟩ := (flt_eq_true_iff hi v).1 hv
  simp [clampTo, hv, flt_eq_false_of_fkey_le (h.lo_lt_hi.trans hkey).le]

theorem QuantizesOver.clampTo_hi (h : QuantizesOver lo hi n) : clampTo hi lo hi = hi := by
  simp [clampTo, fgt, flt_eq_false_of_fkey_le h.lo_lt_hi.le, flt_eq_false_of_fkey_le le_rfl]

/-! ### The code -/

theorem quantize_of_not_isNaN {v : F64} (hv : isNaN v = false) :
    quantize v lo hi n = ftrunc (quotientOf (clampTo v lo hi) lo hi n) := by
  simp [quantize, hv]

theorem QuantizesOver.quantize_lo (h : QuantizesOver lo hi n) : quantize lo lo hi n = 0 := by
  rw [quantize_of_not_isNaN (isNaN_of_isFinite h.lo_finite), h.clampTo_lo, h.ftrunc_quotientOf_lo]

theorem QuantizesOver.quantize_of_flt (h : QuantizesOver lo hi n) {v : F64} (hv : flt v lo = true) :
    quantize v lo hi n = quantize lo lo hi n := by
  obtain ⟨hnan, hlo, -⟩ := (flt_eq_true_iff v lo).1 hv
  rw [quantize_of_not_isNaN hnan, quantize_of_not_isNaN hlo, clampTo_of_flt hv, h.clampTo_lo]

theorem QuantizesOver.quantize_of_fgt (h : QuantizesOver lo hi n) {v : F64} (hv : fgt v hi = true) :
    quantize v lo hi n = quantize hi lo hi n := by
  obtain ⟨hhi, hnan, -⟩ := (flt_eq_true_iff hi v).1 hv
  rw [quantize_of_not_isNaN hnan, quantize_of_not_isNaN hhi, h.clampTo_of_fgt hv, h.clampTo_hi]

theorem QuantizesOver.quantize_mono (h : QuantizesOver lo hi n) {x y : F64} (hx : isNaN x = false)
    (hy : isNaN y = false) (hxy : fkey x ≤ fkey y) : quantize x lo hi n ≤ quantize y lo hi n := by
  have hlt := h.lo_lt_hi
  rw [quantize_of_not_isNaN hx, quantize_of_not_isNaN hy]
  apply h.ftrunc_quotientOf_mono <;> simp only [h.fkey_clampTo hx, h.fkey_clampTo hy] <;> omega

theorem QuantizesOver.quantize_le (h : QuantizesOver lo hi n) (v : F64) : quantize v lo hi n ≤ n := by
  by_cases hv : isNaN v = true
  · simp [quantize, hv]
  · have hnan : isNaN v = false := Bool.eq_false_of_not_eq_true hv
    have hlt := h.lo_lt_hi
    have hkey := h.fkey_clampTo hnan
    rw [quantize_of_not_isNaN hnan]
    exact (h.ftrunc_quotientOf_mono (by omega) (by omega) le_rfl).trans h.ftrunc_quotientOf_hi_le

end

/-- Inside the contract the 16-bit port carries the whole code. -/
theorem toNat_qencRaw {lo hi : F64} {bits : BitVec 5} {n : Nat} (hwidth : supportedWidth bits n)
    (h : rangeContract lo hi bits) (v : F64) : (qencRaw v lo hi bits).toNat = quantize v lo hi n := by
  have hq := quantizesOver_of_contract hwidth h
  rw [qencRaw_of_supportedWidth hwidth]
  exact Nat.mod_eq_of_lt ((hq.quantize_le v).trans_lt hq.steps_lt)

/-- Settles O22: a clamped value is the end it is clamped to, and at the lower end the difference is zero. -/
theorem qencSaturates : Obligations.QencSaturates := by
  intro value lo hi bits hcontract
  cases hsteps : stepsOf bits with
  | none => simp [qencRaw_of_stepsOf_none hsteps]
  | some n =>
    have hwidth := (stepsOf_eq_some bits n).1 hsteps
    have h := quantizesOver_of_contract hwidth hcontract
    simp only [qencRaw_of_supportedWidth hwidth]
    exact ⟨by rw [h.quantize_lo], fun hlow => by rw [h.quantize_of_flt hlow],
      fun hhigh => by rw [h.quantize_of_fgt hhigh]⟩

/-- Settles O23: the clamp and the quotient are monotone, and no code wraps on its port. -/
theorem qencMonotone : Obligations.QencMonotone := by
  intro x y lo hi bits hcontract hx hy hxy
  cases hsteps : stepsOf bits with
  | none => simp [qencRaw_of_stepsOf_none hsteps]
  | some n =>
    have hwidth := (stepsOf_eq_some bits n).1 hsteps
    rw [toNat_qencRaw hwidth hcontract, toNat_qencRaw hwidth hcontract]
    exact (quantizesOver_of_contract hwidth hcontract).quantize_mono hx hy hxy

/-- Settles O24: no code is above that of `max`, which the roundings cannot lift past the last one. -/
theorem qencWithinWidth : Obligations.QencWithinWidth := by
  intro value lo hi bits n hcontract hwidth
  rw [toNat_qencRaw hwidth hcontract]
  exact (quantizesOver_of_contract hwidth hcontract).quantize_le value

/-! ### The rows of the range table (10_state.md R17) -/

theorem rangeContract_range (c : Channel) (bits : BitVec 5) :
    rangeContract (Config.range c).min (Config.range c).max bits := by
  rintro n (⟨-, rfl⟩ | ⟨-, rfl⟩) <;> cases c <;> decide +kernel

/-- Over a row of the table the product of the span and the number of steps is exact, so `max` has the last code
(40_quantizer.md R71). -/
theorem quantize_range_max (c : Channel) {bits : BitVec 5} {n : Nat} (h : supportedWidth bits n) :
    quantize (Config.range c).max (Config.range c).min (Config.range c).max n = n := by
  obtain ⟨-, rfl⟩ | ⟨-, rfl⟩ := h <;> cases c <;> decide +kernel

/-- Over a row of the table the first and the last code decode to the ends (40_quantizer.md R73). -/
theorem dequantize_range_ends (c : Channel) {bits : BitVec 5} {n : Nat} (h : supportedWidth bits n) :
    dequantize 0 (Config.range c).min (Config.range c).max n = (Config.range c).min ∧
      dequantize n (Config.range c).min (Config.range c).max n = (Config.range c).max := by
  obtain ⟨-, rfl⟩ | ⟨-, rfl⟩ := h <;> cases c <;> decide +kernel

/-- Settles O25: `min` has code 0 over every range of the contract (O22); the other ends are those of the ten rows. -/
theorem quantizerEndPoints : Obligations.QuantizerEndPoints := by
  intro c bits n hwidth
  obtain ⟨hdec_min, hdec_max⟩ := dequantize_range_ends c hwidth
  obtain ⟨henc_min, -, -⟩ := qencSaturates (Config.range c).min _ _ bits (rangeContract_range c bits)
  have hfits : (BitVec.ofNat 16 n).toNat = n := by
    obtain ⟨-, rfl⟩ | ⟨-, rfl⟩ := hwidth <;> rfl
  rw [qencRaw_of_supportedWidth hwidth (Config.range c).max, quantize_range_max c hwidth,
    qdecValue_of_supportedWidth hwidth, qdecValue_of_supportedWidth hwidth, hfits]
  exact ⟨henc_min, rfl, hdec_min, hdec_max⟩

end Sys2Proof.Machine
end

section
/-! PROOFS. The frame codec (41_frame_codec.md): a frame and its fields are compared as numbers, since laying fields
side by side is a sum of shifted parts; what PACK needs of the quantizer is that a code fits its field and saturates,
and a decoded reply misses zero because QDEC is monotone and changes its sign between two neighbouring codes. -/

namespace Sys2Proof.Machine

/-! ### Fields and bytes as numbers -/

/-- A concatenation is the sum of its parts, the upper one shifted over the lower one. -/
theorem toNat_append_eq_add {a b : Nat} (x : BitVec a) (y : BitVec b) :
    (x ++ y).toNat = x.toNat * 2 ^ b + y.toNat := by
  rw [BitVec.toNat_append, ← Nat.shiftLeft_add_eq_or_of_lt y.isLt, Nat.shiftLeft_eq]

/-- A cut drops what is below it and what is above it. -/
theorem toNat_extract {k : Nat} (w : BitVec k) (s n : Nat) : (w.extractLsb' s n).toNat = w.toNat / 2 ^ s % 2 ^ n := by
  rw [BitVec.extractLsb'_toNat, Nat.shiftRight_eq_div_pow]

theorem toNat_frameByte (w : Frame) (i : Nat) : (frameByte w i).toNat = w.toNat / 2 ^ (56 - 8 * i) % 2 ^ 8 :=
  toNat_extract w _ _

/-! ### PACK -/

/-- The byte of two nibbles is their concatenation. -/
theorem nibbles_eq_append (hi lo : BitVec 4) : nibbles hi lo = hi ++ lo := shiftLeft_or_eq_append hi lo

/-- The byte equations of R48 lay the five fields side by side, as R47 does. -/
theorem packRaws_eq_append (pos : BitVec 16) (vel kp kd trq : BitVec 12) :
    packRaws pos vel kp kd trq = pos ++ vel ++ kp ++ kd ++ trq := by
  apply BitVec.eq_of_toNat_eq
  simp only [packRaws, frameOf, nibbles_eq_append, toNat_append_eq_add, toNat_extract]
  omega

/-- The bytes of a command frame (30_encoding.md R48). -/
theorem frameByte_packRaws (pos : BitVec 16) (vel kp kd trq : BitVec 12) :
    (frameByte (packRaws pos vel kp kd trq) 0).toNat = pos.toNat / 256 ∧
      (frameByte (packRaws pos vel kp kd trq) 1).toNat = pos.toNat % 256 ∧
      (frameByte (packRaws pos vel kp kd trq) 2).toNat = vel.toNat / 16 ∧
      (frameByte (packRaws pos vel kp kd trq) 3).toNat = vel.toNat % 16 * 16 + kp.toNat / 256 ∧
      (frameByte (packRaws pos vel kp kd trq) 4).toNat = kp.toNat % 256 ∧
      (frameByte (packRaws pos vel kp kd trq) 5).toNat = kd.toNat / 16 ∧
      (frameByte (packRaws pos vel kp kd trq) 6).toNat = kd.toNat % 16 * 16 + trq.toNat / 256 ∧
      (frameByte (packRaws pos vel kp kd trq) 7).toNat = trq.toNat % 256 := by
  have hpos := pos.isLt
  simp only [packRaws_eq_append, toNat_frameByte, toNat_append_eq_add]
  omega

/-- The code of a 12-bit channel fits its field (40_quantizer.md R77). -/
theorem setWidth_encodeField {c : Channel} (hbits : (Config.range c).bits = 12#5) (v : F64) :
    (encodeField c v).setWidth 16 = encodeChannel c v := by
  have hfits := qencWithinWidth v _ _ _ 4095 (rangeContract_range c _) (.inl ⟨hbits, rfl⟩)
  apply BitVec.eq_of_toNat_eq
  rw [encodeField, BitVec.toNat_setWidth_of_le (by omega), BitVec.toNat_setWidth]
  exact Nat.mod_eq_of_lt (Nat.lt_succ_of_le hfits)

/-- Settles O26: the fields are those of `packFrame`, and no code loses a bit in its field. -/
theorem packResult : Obligations.PackResult := by
  intro sel p v kp kd t s
  obtain ⟨h0, h1, h2, h3, h4, h5, h6, h7⟩ := frameByte_packRaws (encodeChannel .position p)
    (encodeField .velocity v) (encodeField .kp kp) (encodeField .kd kd) (encodeField .torque t)
  exact ⟨packFrame p v kp kd t, _, _, _, _, _, rfl, rfl, setWidth_encodeField rfl v, setWidth_encodeField rfl kp,
    setWidth_encodeField rfl kd, setWidth_encodeField rfl t, h0, h1, h2, h3, h4, h5, h6, h7,
    packRaws_eq_append _ _ _ _ _⟩

/-- A clamped value has the code of the value (41_frame_codec.md R82): the clamp inside QENC saturates. -/
theorem encodeChannel_clampTo (c : Channel) (v : F64) :
    encodeChannel c (clampTo v (Config.range c).min (Config.range c).max) = encodeChannel c v := by
  obtain ⟨-, hlow, hhigh⟩ := qencSaturates v _ _ (Config.range c).bits (rangeContract_range c _)
  unfold clampTo
  split_ifs with hmin hmax
  · exact (hlow hmin).symm
  · exact (hhigh hmax).symm
  · rfl

/-- Settles O27, channel by channel. -/
theorem packClampsOnce : Obligations.PackClampsOnce := by
  intro sel p v kp kd t s
  simp only [exec, execPack, packFrame, encodeField, encodeChannel_clampTo]

/-- Settles O31: both sides are computed; the golden setpoints, those of reset, both ends, and the infinities. -/
theorem workedCommandFrames : Obligations.WorkedCommandFrames :=
  ⟨by decide +kernel, by decide +kernel, by decide +kernel, by decide +kernel, by decide +kernel⟩

/-! ### UNPACK -/

theorem toNat_positionRaw (w : Frame) :
    (positionRaw w).toNat = (frameByte w 1).toNat * 256 + (frameByte w 2).toNat := by
  rw [positionRaw_eq, toNat_extract, toNat_frameByte, toNat_frameByte]
  omega

theorem toNat_velocityRaw (w : Frame) :
    (velocityRaw w).toNat = (frameByte w 3).toNat * 16 + (frameByte w 4).toNat / 16 := by
  rw [velocityRaw_eq, toNat_extract, toNat_frameByte, toNat_frameByte]
  omega

theorem toNat_torqueRaw (w : Frame) :
    (torqueRaw w).toNat = (frameByte w 4).toNat % 16 * 256 + (frameByte w 5).toNat := by
  rw [torqueRaw_eq, toNat_extract, toNat_frameByte, toNat_frameByte]
  omega

/-- On the 16-bit raw port a field has the number it had. -/
theorem toNat_setWidth_field (x : BitVec 12) : (x.setWidth 16).toNat = x.toNat :=
  BitVec.toNat_setWidth_of_le (by omega)

theorem exec_unpack_short {len : BitVec 4} (h : len.toNat < 6) (sel : BitVec 2) (w : Frame) (s : State) :
    exec (.unpack sel w len) s = .next (s.raise .decodeTooShort) := by
  rw [exec, execUnpack, State.decodeReply_eq, if_pos h]

theorem exec_unpack_decoded {len : BitVec 4} (h : 6 ≤ len.toNat) (sel : BitVec 2) (s : State) {w : Frame} {r : Reply}
    (hr : replyOf w = r) : exec (.unpack sel w len) s = .next { s with
      out := { status := some .ok, idOut := some r.id, pOut := some r.p, vOut := some r.v, tOut := some r.t } } := by
  rw [exec, execUnpack, State.decodeReply_eq, if_neg (not_lt.2 h), hr]
  rfl

theorem exec_rx_decoded {len : BitVec 4} (h : 6 ≤ len.toNat) (sel : BitVec 2) (w : Frame) (s : State) :
    exec (.rx sel w len) s =
      .next ((s.setTelemetry (replyOf w).telemetry).respond (OutPorts.decodedReply (replyOf w))) := by
  rw [exec, execRx, State.receive_eq, if_neg (not_lt.2 h)]

/-- What a reply decodes to, with the ranges written out (10_state.md R17; 41_frame_codec.md R87). -/
theorem replyOf_eq_qdecValue (w : Frame) : replyOf w =
    { id := frameByte w 0
      p := qdecValue (positionRaw w) 0xC029000000000000#64 0x4029000000000000#64 16#5
      v := qdecValue ((velocityRaw w).setWidth 16) 0xC020000000000000#64 0x4020000000000000#64 12#5
      t := qdecValue ((torqueRaw w).setWidth 16) 0xC062000000000000#64 0x4062000000000000#64 12#5 } := by
  rw [replyOf, decodeWith_position, decodeWith_velocity, decodeWith_replyTorque]

/-- Settles O28: the raws are those `replyOf` decodes. -/
theorem unpackResult : Obligations.UnpackResult := by
  intro sel w len s
  refine ⟨fun hshort => exec_unpack_short hshort sel w s, fun hlen => ⟨positionRaw w, (velocityRaw w).setWidth 16,
    (torqueRaw w).setWidth 16, toNat_positionRaw w, ?_, ?_, ?_⟩⟩
  · rw [toNat_setWidth_field, toNat_velocityRaw]
  · rw [toNat_setWidth_field, toNat_torqueRaw]
  · rw [exec_unpack_decoded hlen sel s (replyOf_eq_qdecValue w)]

/-- Bytes 0 to 5 hold all that a reply is decoded from (41_frame_codec.md R85). -/
theorem replyOf_congr {w w' : Frame} (h : w.extractLsb' 16 48 = w'.extractLsb' 16 48) : replyOf w = replyOf w' := by
  have hcut (t m : Nat) (htm : t + m ≤ 48) : w.extractLsb' (16 + t) m = w'.extractLsb' (16 + t) m := by
    rw [← extract_extract w 16 htm, h, extract_extract w' 16 htm]
  have hid : frameByte w 0 = frameByte w' 0 := hcut 40 8 (by decide)
  have hpos : positionRaw w = positionRaw w' := by
    rw [positionRaw_eq, positionRaw_eq]; exact hcut 24 16 (by decide)
  have hvel : velocityRaw w = velocityRaw w' := by
    rw [velocityRaw_eq, velocityRaw_eq]; exact hcut 12 12 (by decide)
  have htrq : torqueRaw w = torqueRaw w' := by
    rw [torqueRaw_eq, torqueRaw_eq]; exact hcut 0 12 (by decide)
  rw [replyOf, replyOf, hid, hpos, hvel, htrq]

/-- Settles O29: with 6 bytes or more both operations depend on `replyOf` alone. -/
theorem decodeIgnoresLengthAndLastBytes : Obligations.DecodeIgnoresLengthAndLastBytes := by
  intro sel w w' len len' s h hlen hlen'
  have hreply := replyOf_congr h
  rw [exec_unpack_decoded hlen sel s hreply, exec_unpack_decoded hlen' sel s rfl, exec_rx_decoded hlen,
    exec_rx_decoded hlen', hreply]
  exact ⟨rfl, rfl⟩

/-! ### No decoded value is a zero -/

/-- Both zeros, and nothing else, have the place of zero. -/
theorem fkey_eq_zero_iff (x : F64) : fkey x = 0 ↔ fmag x = 0 := by
  unfold fkey
  split <;> omega

/-- QDEC's value goes from below zero at code `k` to above zero at the next one (41_frame_codec.md R90: half a step on
either side). -/
def ChangesSignAfter (r : PhysicalRange) (n k : Nat) : Prop :=
  fkey (dequantize k r.min r.max n) < 0 ∧ 0 < fkey (dequantize (k + 1) r.min r.max n)

theorem changesSignAfter_position : ChangesSignAfter (Config.range .position) 65535 0x7FFF := by
  constructor <;> decide +kernel

theorem changesSignAfter_velocity : ChangesSignAfter (Config.range .velocity) 4095 0x7FF := by
  constructor <;> decide +kernel

theorem changesSignAfter_replyTorque : ChangesSignAfter replyTorqueRange 4095 0x7FF := by
  constructor <;> decide +kernel

/-- Where QDEC changes its sign between two neighbouring codes no code decodes to a zero: QDEC is monotone. -/
theorem DecodesOnto.fmag_decodeWith_ne_zero {r : PhysicalRange} {n k : Nat} (h : DecodesOnto r n)
    (hsign : ChangesSignAfter r n k) (hk : k ≤ n) {raw : BitVec 16} (hraw : raw.toNat ≤ n) :
    fmag (decodeWith r raw) ≠ 0 := by
  obtain ⟨hneg, hpos⟩ := hsign
  have hdec : decodeWith r raw = dequantize raw.toNat r.min r.max n := by
    simp [decodeWith, qdecValue, h.steps]
  rw [hdec, Ne, ← fkey_eq_zero_iff]
  rcases Nat.lt_or_ge k raw.toNat with habove | hbelow
  · exact (hpos.trans_le (h.dequantize_mono habove hraw)).ne'
  · exact ((h.dequantize_mono hbelow hk).trans_lt hneg).ne

/-- Settles O30: a frame that decodes gives `replyOf`, whose raws fit their widths. -/
theorem decodedReplyInRangeAndNotZero : Obligations.DecodedReplyInRangeAndNotZero := by
  intro w len r hr
  rw [unpackFrame_eq] at hr
  split at hr
  · nomatch hr
  · obtain rfl := Option.some.inj hr
    have hpos : (positionRaw w).toNat ≤ 65535 := Nat.le_of_lt_succ (positionRaw w).isLt
    have hvel := toNat_field_le (velocityRaw w)
    have htrq := toNat_field_le (torqueRaw w)
    simp only [replyOf]
    exact ⟨decodesOnto_position.inRange_decodeWith hpos, decodesOnto_velocity.inRange_decodeWith hvel,
      decodesOnto_replyTorque.inRange_decodeWith htrq,
      decodesOnto_position.fmag_decodeWith_ne_zero changesSignAfter_position (by decide) hpos,
      decodesOnto_velocity.fmag_decodeWith_ne_zero changesSignAfter_velocity (by decide) hvel,
      decodesOnto_replyTorque.fmag_decodeWith_ne_zero changesSignAfter_replyTorque (by decide) htrq⟩

end Sys2Proof.Machine
end

section
/-! PROOFS. The transmit path (42_mode_commands_and_mux.md): the outputs an operation can end with all have the form
of R102 and 60_exceptions.md R126 to R129; a transmission changes nothing but the outputs, which no operation reads; a
control frame is a command frame of raw codes, so whether the two are equal is decided field by field. -/

namespace Sys2Proof.Machine

/-! ### The form of the outputs -/

@[simp] theorem outputsOk_quiet : outputsOk OutPorts.quiet = true := rfl
@[simp] theorem outputsOk_statusOnly_ok : outputsOk (OutPorts.statusOnly .ok) = true := rfl
@[simp] theorem outputsOk_statusOnly_decodeTooShort : outputsOk (OutPorts.statusOnly .decodeTooShort) = true := rfl
@[simp] theorem outputsOk_raw (r : BitVec 16) : outputsOk (OutPorts.raw r) = true := rfl
@[simp] theorem outputsOk_value (v : F64) : outputsOk (OutPorts.value v) = true := rfl
@[simp] theorem outputsOk_frame (w : Frame) : outputsOk (OutPorts.frame w) = true := rfl
@[simp] theorem outputsOk_decodedReply (r : Reply) : outputsOk (OutPorts.decodedReply r) = true := rfl

/-- A refused frame is offered in the same envelope as a taken one (42_mode_commands_and_mux.md R103). -/
@[simp] theorem outputsOk_transmit (w : Frame) (busOk : Bool) : outputsOk (OutPorts.transmit w busOk) = true := by
  cases busOk <;> rfl

@[simp] theorem outputsOk_decodeReply (s : State) (w : Frame) (len : BitVec 4) :
    outputsOk (s.decodeReply w len).out = true := by
  rw [State.decodeReply_eq]
  split <;> simp

@[simp] theorem outputsOk_receive (s : State) (w : Frame) (len : BitVec 4) :
    outputsOk (s.receive w len).out = true := by
  rw [State.receive_eq]
  split <;> simp

/-- Every instruction replaces the outputs by ones of the form, whatever they were before (10_state.md R19, R20). -/
theorem outputsOk_of_exec {i : Instr} {s t : State} (h : exec i s = .next t) : outputsOk t.out = true := by
  cases i with
  | qenc sel => obtain ⟨-, rfl⟩ := execQenc_next (sel := sel) h; exact outputsOk_raw _
  | qdec sel => obtain ⟨-, rfl⟩ := execQdec_next (sel := sel) h; exact outputsOk_value _
  | pack => exact Host.Outcome.next.inj h ▸ outputsOk_frame _
  | unpack => exact Host.Outcome.next.inj h ▸ outputsOk_decodeReply s _ _
  | wrsp sel => obtain ⟨c, -, rfl⟩ := execWrsp_next (sel := sel) h; exact outputsOk_statusOnly_ok
  | rdsp sel => obtain ⟨c, -, rfl⟩ := execRdsp_next (sel := sel) h; exact outputsOk_value _
  | rdtl sel => obtain ⟨v, -, rfl⟩ := execRdtl_next (sel := sel) h; exact outputsOk_value _
  | txEnter busOk | txExit busOk | txZero busOk | txCmd busOk =>
    exact Host.Outcome.next.inj h ▸ outputsOk_transmit _ busOk
  | rx | frameCmd | frameReply | frameEnter | frameExit | frameZero =>
    exact Host.Outcome.next.inj h ▸ outputsOk_receive s _ _
  | disc => exact Host.Outcome.next.inj h ▸ outputsOk_statusOnly_ok

/-- Settles O37: an idle step and a reset are quiet, and an instruction leaves outputs of the form. -/
theorem outputsFormKept : Obligations.OutputsFormKept := by
  intro s t _ h
  obtain ⟨-, rfl⟩ | ⟨-, rfl⟩ | ⟨i, u, -, hexec, rfl⟩ := step_next h
  · exact outputsOk_quiet
  · exact outputsOk_quiet
  · rw [State.advance_out]
    exact outputsOk_of_exec hexec

/-- Settles O38: reset is quiet. -/
theorem outputsFormAtReset : Obligations.OutputsFormAtReset := outputsOk_quiet

/-! ### What a transmission emits, and what it leaves unchanged -/

/-- A TX operation with its envelope written out (42_mode_commands_and_mux.md R102, R103). -/
theorem State.transmit_eq (s : State) (sel : BitVec 2) (busOk : Bool) : s.transmit sel busOk =
    { s with out := { status := some (if busOk then .ok else .transportError), txValid := true,
                      txAddr := some 0x017#11, txDlc := some 8#4, txData := some (txFrame sel s.sp) } } := rfl

/-- Settles O32: the mux selects a constant for each of the three. -/
theorem modeCommandsEmit : Obligations.ModeCommandsEmit := fun busOk s =>
  ⟨congrArg Host.Outcome.next (s.transmit_eq 0#2 busOk), congrArg Host.Outcome.next (s.transmit_eq 1#2 busOk),
    congrArg Host.Outcome.next (s.transmit_eq 2#2 busOk)⟩

/-- Settles O33: PACK and the mux form their frame by the one `packFrame`. -/
theorem txCmdEmitsPackedSetpoints : Obligations.TxCmdEmitsPackedSetpoints := fun busOk _ s =>
  ⟨commandFrame s.sp, rfl, congrArg Host.Outcome.next (s.transmit_eq 3#2 busOk)⟩

/-- A transmission writes no register (42_mode_commands_and_mux.md R103). -/
theorem writes_nothing_of_transmits {i : Instr} (h : transmits i = true) :
    writesSetpoints i = false ∧ writesTelemetry i = false := by
  cases i with
  | txEnter | txExit | txZero | txCmd => exact ⟨rfl, rfl⟩
  | _ => nomatch h

/-- Settles O34: a transmission changes nothing but the outputs, and no operation reads those. -/
theorem transmissionsDoNotInterfere : Obligations.TransmissionsDoNotInterfere := by
  intro i j s t hi _ h
  obtain ⟨hsp, htl⟩ := writes_nothing_of_transmits hi
  rw [exec_eq_respond h hsp htl]
  exact ⟨rfl, rfl, exec_respond j s t.out⟩

/-! ### When a command frame is a control frame -/

/-- Command frames are equal exactly when their fields are: the decoder reads each field back. -/
theorem packRaws_inj {pos pos' : BitVec 16} {vel kp kd trq vel' kp' kd' trq' : BitVec 12} :
    packRaws pos vel kp kd trq = packRaws pos' vel' kp' kd' trq' ↔
      pos = pos' ∧ vel = vel' ∧ kp = kp' ∧ kd = kd' ∧ trq = trq' := by
  constructor
  · intro h
    rw [packRaws_eq_append, packRaws_eq_append] at h
    have hfields := congrArg decodeCommandFrame h
    rwa [decodeCommandFrame_append, decodeCommandFrame_append, Instr.frameCmd.injEq] at hfields
  · rintro ⟨rfl, rfl, rfl, rfl, rfl⟩
    rfl

/-- The pattern of `c` is the command frame of these raw codes (42_mode_commands_and_mux.md R96, R106). -/
theorem modeFrame_eq_packRaws (c : BitVec 2) :
    modeFrame c = packRaws 0xFFFF#16 0xFFF#12 0xFFF#12 0xFFF#12 (0xFFC#12 + c.setWidth 12) := by
  revert c; decide

/-- For `c = 0, 1, 2` the mux selects the control frame of `c` (42_mode_commands_and_mux.md R101). -/
theorem txFrame_eq_modeFrame {c : BitVec 2} (hc : c ≠ 3#2) (sp : Setpoints) : txFrame c sp = modeFrame c := by
  match c with
  | 0#2 | 1#2 | 2#2 => rfl
  | 3#2 => exact absurd rfl hc

/-- A 12-bit channel's field and its code on the raw port have the same number. -/
theorem toNat_encodeField {c : Channel} (hbits : (Config.range c).bits = 12#5) (v : F64) :
    (encodeField c v).toNat = (encodeChannel c v).toNat := by
  rw [← setWidth_encodeField hbits v, toNat_setWidth_field]

theorem encodeField_eq_last_iff {c : Channel} (hbits : (Config.range c).bits = 12#5) (v : F64) :
    encodeField c v = 0xFFF#12 ↔ encodeChannel c v = 0x0FFF#16 := by
  rw [← BitVec.toNat_inj, ← BitVec.toNat_inj, toNat_encodeField hbits]
  rfl

/-- The code byte's two low bits do not carry: `0xFC | c` is `0xFC + c`. -/
theorem toNat_controlTorque (c : BitVec 2) : (0xFFC#12 + c.setWidth 12).toNat = 0xFFC + c.toNat := by
  revert c; decide

/-- Settles O35: both frames are `packRaws` of their fields, and equal fields are equal codes. -/
theorem aliasByRawCodes : Obligations.AliasByRawCodes := by
  intro sp c hc
  have hcmd : txFrame 3#2 sp = packRaws (encodeChannel .position sp.position) (encodeField .velocity sp.velocity)
      (encodeField .kp sp.kp) (encodeField .kd sp.kd) (encodeField .torque sp.torque) := rfl
  have htorque : encodeField .torque sp.torque = 0xFFC#12 + c.setWidth 12 ↔
      (encodeChannel .torque sp.torque).toNat = 0xFFC + c.toNat := by
    rw [← BitVec.toNat_inj, toNat_encodeField rfl, toNat_controlTorque]
  rw [hcmd, txFrame_eq_modeFrame hc, modeFrame_eq_packRaws, packRaws_inj, encodeField_eq_last_iff rfl,
    encodeField_eq_last_iff rfl, encodeField_eq_last_iff rfl, htorque]

end Sys2Proof.Machine
end

section
/-! PROOFS. Register access and the session (43_register_and_session_ops.md): what each operation answers is said once
for the register its index names, and read off index by index; a register written again has forgotten the first value;
what a step has to do is decided by what is presented, so without an operation nothing happens. -/

namespace Sys2Proof.Machine

/-! ### The indices that name nothing -/

theorem setpointChannel_eq_none {idx : BitVec 3} : setpointChannel idx = none ↔ 5 ≤ idx.toNat := by
  revert idx; decide

theorem telemetryChannel_eq_none {idx : BitVec 3} : telemetryChannel idx = none ↔ 3 ≤ idx.toNat := by
  revert idx; decide

theorem exec_wrsp_of_channel_none {idx : BitVec 3} (h : setpointChannel idx = none) (sel : BitVec 2) (v : F64)
    (s : State) : exec (.wrsp sel idx v) s = .refused (.noSuchSetpoint idx) := by
  simp [exec, execWrsp, Setpoints.write, h]

theorem exec_rdsp_of_channel_none {idx : BitVec 3} (h : setpointChannel idx = none) (sel : BitVec 2) (s : State) :
    exec (.rdsp sel idx) s = .refused (.noSuchSetpoint idx) := by
  simp [exec, execRdsp, Setpoints.read, h]

theorem exec_rdtl_of_channel_none {idx : BitVec 3} (h : telemetryChannel idx = none) (sel : BitVec 2) (s : State) :
    exec (.rdtl sel idx) s = .refused (.noSuchTelemetry idx) := by
  simp [exec, execRdtl, Telemetry.read, h]

/-- Settles O43: these are the indices of no register. -/
theorem indexNamingNothingRefused : Obligations.IndexNamingNothingRefused := by
  intro sel idx v s
  refine ⟨fun h => ?_, fun h => exec_rdtl_of_channel_none (telemetryChannel_eq_none.2 h) sel s⟩
  have hnone := setpointChannel_eq_none.2 h
  exact ⟨exec_wrsp_of_channel_none hnone sel v s, exec_rdsp_of_channel_none hnone sel s⟩

/-! ### Reading and writing one register -/

/-- Settles O40, index by index. -/
theorem wrspWritesOneRegister : Obligations.WrspWritesOneRegister := fun sel v s =>
  ⟨exec_wrsp_of_channel (c := .position) rfl sel v s, exec_wrsp_of_channel (c := .velocity) rfl sel v s,
    exec_wrsp_of_channel (c := .kp) rfl sel v s, exec_wrsp_of_channel (c := .kd) rfl sel v s,
    exec_wrsp_of_channel (c := .torque) rfl sel v s⟩

/-- Settles O41, index by index. -/
theorem rdspReadsOneRegister : Obligations.RdspReadsOneRegister := fun sel s =>
  ⟨exec_rdsp_of_channel (c := .position) rfl sel s, exec_rdsp_of_channel (c := .velocity) rfl sel s,
    exec_rdsp_of_channel (c := .kp) rfl sel s, exec_rdsp_of_channel (c := .kd) rfl sel s,
    exec_rdsp_of_channel (c := .torque) rfl sel s⟩

/-- RDTL of an index that names a register answers that register. -/
theorem exec_rdtl_of_read {idx : BitVec 3} {s : State} {x : F64} (h : s.tl.read idx = some x) (sel : BitVec 2) :
    exec (.rdtl sel idx) s = .next (s.respond (OutPorts.value x)) := by
  rw [exec, execRdtl, h]

/-- Settles O42, index by index. -/
theorem rdtlReadsOneRegister : Obligations.RdtlReadsOneRegister := fun sel _ =>
  ⟨exec_rdtl_of_read rfl sel, exec_rdtl_of_read rfl sel, exec_rdtl_of_read rfl sel⟩

/-! ### The session -/

theorem exec_rx_short {len : BitVec 4} (h : len.toNat < 6) (sel : BitVec 2) (w : Frame) (s : State) :
    exec (.rx sel w len) s = .next (s.raise .decodeTooShort) := by
  rw [exec, execRx, State.receive_eq, if_pos h]

/-- With six bytes or more all three values are published; the id is answered and not stored. -/
theorem exec_rx_published {len : BitVec 4} (h : 6 ≤ len.toNat) (sel : BitVec 2) (s : State) {w : Frame} {r : Reply}
    (hr : replyOf w = r) : exec (.rx sel w len) s = .next { s with
      tl := { position := r.p, velocity := r.v, torque := r.t },
      out := { status := some .ok, idOut := some r.id, pOut := some r.p, vOut := some r.v, tOut := some r.t } } := by
  rw [exec_rx_decoded h, hr]
  rfl

/-- Settles O46: UNPACK and RX decode by the one `replyOf`. -/
theorem rxPublishesAllOrNothing : Obligations.RxPublishesAllOrNothing := by
  intro sel w len s
  refine ⟨fun hshort => exec_rx_short hshort sel w s, fun hlen => ?_⟩
  obtain ⟨r, hr⟩ : ∃ r, replyOf w = r := ⟨_, rfl⟩
  exact ⟨r.id, r.p, r.v, r.t, exec_unpack_decoded hlen sel s hr, exec_rx_published hlen sel s hr⟩

/-- DISC sets telemetry to its defaults and answers its status only. -/
theorem exec_disc (sel : BitVec 2) (s : State) : exec (.disc sel) s =
    .next ((s.setTelemetry Telemetry.defaults).respond (OutPorts.statusOnly .ok)) := rfl

/-- Settles O47: the telemetry defaults are positive zeros (10_state.md R13). -/
theorem discResetsTelemetryOnly : Obligations.DiscResetsTelemetryOnly := exec_disc

/-! ### The last write wins -/

/-- A register just written reads as the value written (43_register_and_session_ops.md R111). -/
theorem read_of_exec_wrsp {sel : BitVec 2} {idx : BitVec 3} {v : F64} {s t : State}
    (h : exec (.wrsp sel idx v) s = .next t) : t.sp.read idx = some v := by
  obtain ⟨c, hc, rfl⟩ := execWrsp_next (sel := sel) h
  exact (Setpoints.read_eq_some _ _ _).2 ⟨c, hc, by simp [Setpoints.get_set]⟩

/-- A write to the same index leaves nothing of the first. -/
theorem exec_wrsp_overwrites {sel : BitVec 2} {idx : BitVec 3} {v : F64} {s t : State}
    (h : exec (.wrsp sel idx v) s = .next t) (sel' : BitVec 2) (v' : F64) :
    exec (.wrsp sel' idx v') t = exec (.wrsp sel' idx v') s := by
  obtain ⟨c, hc, rfl⟩ := execWrsp_next (sel := sel) h
  rw [exec_respond, exec_wrsp_of_channel hc, exec_wrsp_of_channel hc, State.setSetpoints_sp, Setpoints.set_set]
  rfl

/-- A reply that is published replaces all of the telemetry before it. -/
theorem exec_rx_overwrites {len : BitVec 4} (h : 6 ≤ len.toNat) (sel : BitVec 2) (w : Frame) (s : State)
    (tl : Telemetry) : exec (.rx sel w len) (s.setTelemetry tl) = exec (.rx sel w len) s := by
  rw [exec_rx_decoded h, exec_rx_decoded h, State.setTelemetry_setTelemetry]

/-- Settles O45: the second write overwrites the first, and a TX.CMD between them changes nothing but the outputs. -/
theorem lastWriteWins : Obligations.LastWriteWins := by
  intro sel sel' idx v v' w w' len len' busOk s t u
  refine ⟨fun hwrite => exec_wrsp_overwrites hwrite sel' v', fun hwrite htx => ⟨read_of_exec_wrsp hwrite, ?_, ?_⟩,
    fun hlen hlen' hrx => ?_⟩
  · obtain rfl : t.transmit 3#2 busOk = u := Host.Outcome.next.inj htx
    rw [State.transmit_eq]
    rfl
  · rw [exec_eq_respond htx rfl rfl, exec_respond]
    exact exec_wrsp_overwrites hwrite sel' v'
  · obtain rfl := Host.Outcome.next.inj ((exec_rx_decoded hlen sel w s).symm.trans hrx)
    rw [exec_respond, exec_rx_overwrites hlen']

/-! ### When an instruction completes -/

/-- Settles O12: the case split over the instructions is that of the steps that complete. -/
theorem completesExactlyWhenWellFormed : Obligations.CompletesExactlyWhenWellFormed := exec_completes_iff

/-! ### Nothing happens on its own -/

theorem action_of_nothing_presented {s : State} (h : s.env.current = none) : s.action = .idle := by
  rw [State.action, h]

/-- Ports with neither a request nor `rst` ask for nothing (30_encoding.md R62). -/
theorem action_of_idle_ports {s : State} {p : InPorts} (h : s.env.current = some (.request p))
    (hvalid : p.reqValid = false) (hrst : p.rst = false) : s.action = .idle := by
  simp [State.action, h, Action.ofStimulus, hvalid, hrst]

theorem step_of_action_idle {s : State} (h : s.action = .idle) : step s = .next s.idle.advance := by
  rw [step, h]

/-- Registers are reset only by `rst` (70_reset_and_hazards.md R150). -/
theorem exists_rst_of_action_reset {s : State} (h : s.action = .reset) :
    ∃ p : InPorts, s.env.current = some (.request p) ∧ p.rst = true := by
  cases hcurrent : s.env.current with
  | none => simp [action_of_nothing_presented hcurrent] at h
  | some st =>
    obtain hpresents | ⟨p, hp, hrst | hvalid⟩ := presents_or_no_request hcurrent
    · exact absurd ((action_of_presents hpresents).symm.trans h) (ofDecoded_ne_reset _)
    · exact ⟨p, hcurrent ▸ hp, hrst⟩
    · cases hrst : p.rst with
      | true => exact ⟨p, hcurrent ▸ hp, hrst⟩
      | false => simp [action_of_idle_ports hp hvalid hrst] at h

/-- What runs is an operation that an agent presents. -/
theorem exists_presents_of_action_run {s : State} {i : Instr} (h : s.action = .run i) :
    ∃ st, presents s st ∧ decode st = .instr i := by
  cases hcurrent : s.env.current with
  | none => simp [action_of_nothing_presented hcurrent] at h
  | some st =>
    obtain hpresents | ⟨p, hp, hquiet⟩ := presents_or_no_request hcurrent
    · exact ⟨st, hpresents, (action_of_presents_eq_run hpresents).1 h⟩
    · obtain hidle | hreset := action_of_no_request hp hquiet
      · simp [hidle] at h
      · simp [hreset] at h

/-- Settles O10: an idle step changes no register and is quiet, and every other step has a reset or an operation
presented. -/
theorem idleDoesNothing : Obligations.IdleDoesNothing := by
  refine ⟨fun s hquiet => ?_, fun s t h hchange => ?_⟩
  · obtain hnone | ⟨p, hp, hvalid, hrst⟩ := hquiet
    · exact step_of_action_idle (action_of_nothing_presented hnone)
    · exact step_of_action_idle (action_of_idle_ports hp hvalid hrst)
  · obtain ⟨-, rfl⟩ | ⟨hreset, -⟩ | ⟨i, u, hrun, -, -⟩ := step_next h
    · simp [OutPorts.quiet] at hchange
    · exact .inl (exists_rst_of_action_reset hreset)
    · obtain ⟨st, hpresents, hdecode⟩ := exists_presents_of_action_run hrun
      exact .inr ⟨st, i, hpresents, hdecode⟩

end Sys2Proof.Machine
end

section
/-! PROOFS. The status codes and the separation of the groups (60_exceptions.md R127, R139): what a step does is fixed
by the agents' side alone, and each instruction makes the new telemetry from the old, and the new setpoints and the
frame it transmits from the old setpoints. -/

namespace Sys2Proof.Machine

/-! ### The codes of the status -/

/-- Settles O39, status by status. -/
theorem statusCodes : Obligations.StatusCodes := by
  refine ⟨rfl, rfl, rfl, fun st => ?_⟩
  cases st with
  | ok | decodeTooShort | transportError => decide

/-! ### Two steps from the same stimuli -/

theorem action_eq_of_env_eq {s s' : State} (h : s.env = s'.env) : s.action = s'.action := by
  rw [State.action, State.action, h]

theorem advanceOutcome_next {o : Host.Outcome State Fault Refusal} {t : State} (h : advanceOutcome o = .next t) :
    ∃ u, o = .next u ∧ t = u.advance := by
  cases o with
  | next u => exact ⟨u, rfl, (Host.Outcome.next.inj h).symm⟩
  | fault | refused => nomatch h

/-- From the same stimuli both states stay idle, both are reset, or both run the same instruction. -/
theorem step_next_of_env_eq {s s' t t' : State} (henv : s.env = s'.env) (h : step s = .next t)
    (h' : step s' = .next t') :
    (t = s.idle.advance ∧ t' = s'.idle.advance) ∨
      (t = s.resetRegisters.advance ∧ t' = s'.resetRegisters.advance) ∨
      ∃ i u u', exec i s = .next u ∧ exec i s' = .next u' ∧ t = u.advance ∧ t' = u'.advance := by
  have haction := action_eq_of_env_eq henv
  rw [step] at h h'
  rw [← haction] at h'
  cases hact : s.action with
  | idle =>
    rw [hact] at h h'
    exact .inl ⟨(Host.Outcome.next.inj h).symm, (Host.Outcome.next.inj h').symm⟩
  | reset =>
    rw [hact] at h h'
    exact .inr (.inl ⟨(Host.Outcome.next.inj h).symm, (Host.Outcome.next.inj h').symm⟩)
  | run i =>
    rw [hact] at h h'
    obtain ⟨u, hu, ht⟩ := advanceOutcome_next h
    obtain ⟨u', hu', ht'⟩ := advanceOutcome_next h'
    exact .inr (.inr ⟨i, u, u', hu, hu', ht, ht'⟩)
  | reject r =>
    rw [hact] at h
    nomatch h

/-! ### What an instruction makes of each group -/

/-- What a receive leaves as telemetry is the reply's or, when that is too short, what was there. -/
theorem State.receive_tl_congr {s s' : State} (h : s.tl = s'.tl) (w : Frame) (len : BitVec 4) :
    (s.receive w len).tl = (s'.receive w len).tl := by
  rw [State.receive_eq, State.receive_eq]
  split
  · exact h
  · rfl

section SameInstruction
variable {i : Instr} {s s' t t' : State}

/-- No setpoint reaches telemetry. -/
theorem exec_telemetry_congr (h : exec i s = .next t) (h' : exec i s' = .next t') (htl : s.tl = s'.tl) :
    t.tl = t'.tl := by
  cases hwrites : writesTelemetry i with
  | false =>
    obtain ⟨-, hkeep, -, -⟩ := whoChangesWhat i s t h
    obtain ⟨-, hkeep', -, -⟩ := whoChangesWhat i s' t' h'
    rw [hkeep hwrites, hkeep' hwrites, htl]
  | true =>
    cases i with
    | disc =>
      obtain rfl := Host.Outcome.next.inj h
      obtain rfl := Host.Outcome.next.inj h'
      rfl
    | rx | frameCmd | frameReply | frameEnter | frameExit | frameZero =>
      obtain rfl := Host.Outcome.next.inj h
      obtain rfl := Host.Outcome.next.inj h'
      exact State.receive_tl_congr htl _ _
    | _ => nomatch hwrites

/-- No telemetry reaches a setpoint. -/
theorem exec_setpoints_congr (h : exec i s = .next t) (h' : exec i s' = .next t') (hsp : s.sp = s'.sp) :
    t.sp = t'.sp := by
  cases hwrites : writesSetpoints i with
  | false =>
    obtain ⟨hkeep, -, -, -⟩ := whoChangesWhat i s t h
    obtain ⟨hkeep', -, -, -⟩ := whoChangesWhat i s' t' h'
    rw [hkeep hwrites, hkeep' hwrites, hsp]
  | true =>
    cases i with
    | wrsp sel idx v =>
      obtain ⟨c, hc, rfl⟩ := execWrsp_next (sel := sel) h
      rw [exec_wrsp_of_channel hc] at h'
      obtain rfl := Host.Outcome.next.inj h'
      simp [hsp]
    | _ => nomatch hwrites

/-- Whether a frame goes out is the instruction's alone. -/
theorem exec_txValid_eq (h : exec i s = .next t) (h' : exec i s' = .next t') : t.out.txValid = t'.out.txValid := by
  obtain ⟨-, -, htx, -⟩ := whoChangesWhat i s t h
  obtain ⟨-, -, htx', -⟩ := whoChangesWhat i s' t' h'
  rw [htx, htx']

/-- Outside a transmission there is no frame on the transmit port (42_mode_commands_and_mux.md R102). -/
theorem txData_eq_none_of_outputsOk {o : OutPorts} (hok : outputsOk o = true) (htx : o.txValid = false) :
    o.txData = none := by
  simp only [outputsOk, htx, Bool.false_eq_true, if_false, Bool.and_eq_true, beq_iff_eq] at hok
  obtain ⟨⟨⟨-, hdata⟩, -⟩, -⟩ := hok
  exact hdata

theorem exec_txData_eq_none (h : exec i s = .next t) (htx : transmits i = false) : t.out.txData = none := by
  obtain ⟨-, -, hvalid, -⟩ := whoChangesWhat i s t h
  exact txData_eq_none_of_outputsOk (outputsOk_of_exec h) (hvalid.trans htx)

/-- No telemetry reaches the transmit port: the mux forms its frame from the setpoints
(42_mode_commands_and_mux.md R101). -/
theorem exec_txData_congr (h : exec i s = .next t) (h' : exec i s' = .next t') (hsp : s.sp = s'.sp) :
    t.out.txData = t'.out.txData := by
  cases htx : transmits i with
  | false => rw [exec_txData_eq_none h htx, exec_txData_eq_none h' htx]
  | true =>
    cases i with
    | txEnter | txExit | txZero | txCmd =>
      obtain rfl := Host.Outcome.next.inj h
      obtain rfl := Host.Outcome.next.inj h'
      rw [State.transmit_out, State.transmit_out, hsp]
    | _ => nomatch htx

end SameInstruction

/-- Settles O53: an idle step keeps both groups, a reset sets both to their defaults, and an instruction treats each
group as the lemmas above say. -/
theorem groupsDoNotMix : Obligations.GroupsDoNotMix := by
  intro s s' t t' henv h h'
  obtain ⟨rfl, rfl⟩ | ⟨rfl, rfl⟩ | ⟨i, u, u', hu, hu', rfl, rfl⟩ := step_next_of_env_eq henv h h'
  · exact ⟨fun htl => htl, fun hsp => ⟨hsp, rfl, rfl⟩⟩
  · exact ⟨fun _ => rfl, fun _ => ⟨rfl, rfl, rfl⟩⟩
  · simp only [State.advance_tl, State.advance_sp, State.advance_out]
    exact ⟨exec_telemetry_congr hu hu', fun hsp =>
      ⟨exec_setpoints_congr hu hu' hsp, exec_txValid_eq hu hu', exec_txData_congr hu hu' hsp⟩⟩

end Sys2Proof.Machine
end

section
/-! PROOFS. Reset, and command frames that equal control frames (70_reset_and_hazards.md R150, R156): `rst` is looked
at before the request, and a code is reached exactly at a threshold, since QENC is monotone: it is enough to evaluate
it at the threshold and at the pattern just below. -/

namespace Sys2Proof.Machine

/-! ### The reset input -/

/-- `rst` wins over whatever else is on the ports (log entry 11). -/
theorem action_of_rst {s : State} {p : InPorts} (h : s.env.current = some (.request p)) (hrst : p.rst = true) :
    s.action = .reset := by
  simp [State.action, h, Action.ofStimulus, hrst]

theorem step_of_action_reset {s : State} (h : s.action = .reset) : step s = .next s.resetRegisters.advance := by
  rw [step, h]

/-- Settles O50: the step resets the registers, and the passing of the turn touches none of them. -/
theorem resetInputRestoresDefaults : Obligations.ResetInputRestoresDefaults := fun _ _ hports hrst =>
  ⟨_, step_of_action_reset (action_of_rst hports hrst), rfl, rfl, rfl⟩

/-! ### Where a channel reaches a code -/

theorem encodeChannel_of_isNaN (c : Channel) {v : F64} (hv : isNaN v = true) : encodeChannel c v = 0#16 := by
  unfold encodeChannel qencRaw
  split
  · rfl
  · rw [quantize, if_pos hv]

theorem encodeChannel_mono (c : Channel) {x y : F64} (hx : isNaN x = false) (hy : isNaN y = false)
    (h : fkey x ≤ fkey y) : (encodeChannel c x).toNat ≤ (encodeChannel c y).toNat :=
  qencMonotone x y _ _ _ (rangeContract_range c _) hx hy h

/-- `t` is the least value with a code of at least `k`, and `below` is the pattern just below it. -/
structure ReachesCode (c : Channel) (k : Nat) (below t : F64) : Prop where
  below_not_nan : isNaN below = false
  not_nan : isNaN t = false
  adjacent : fkey below + 1 = fkey t
  code_below : (encodeChannel c below).toNat < k
  code_at : k ≤ (encodeChannel c t).toNat

section
variable {c : Channel} {k : Nat} {below t v : F64}

/-- A NaN has code 0 (40_quantizer.md R70), so it reaches none. -/
theorem ReachesCode.le_code_iff (h : ReachesCode c k below t) : k ≤ (encodeChannel c v).toNat ↔ atLeast v t := by
  cases hv : isNaN v with
  | true =>
    have hk : k ≠ 0 := Nat.ne_zero_of_lt h.code_below
    simp [encodeChannel_of_isNaN c hv, atLeast, hv, hk]
  | false =>
    refine ⟨fun hk => ⟨hv, ?_⟩, fun ⟨_, hle⟩ => h.code_at.trans (encodeChannel_mono c h.not_nan hv hle)⟩
    rw [← h.adjacent, Int.add_one_le_iff]
    by_contra hle
    exact (hk.trans (encodeChannel_mono c hv h.below_not_nan (not_lt.1 hle))).not_gt h.code_below

/-- The values below the threshold end at the pattern just below it. -/
theorem ReachesCode.atMost_below_iff (h : ReachesCode c k below t) :
    atMost v below ↔ isNaN v = false ∧ (encodeChannel c v).toNat < k := by
  refine and_congr_right fun hv => ?_
  rw [← not_le, h.le_code_iff, atLeast, and_iff_right hv, not_le, ← h.adjacent, Int.lt_add_one_iff]

/-- The values with code `k` run from where `k` is reached to just below where `k + 1` is. -/
theorem ReachesCode.code_eq_iff {below' t' : F64} (h : ReachesCode c k below t)
    (hnext : ReachesCode c (k + 1) below' t') :
    (encodeChannel c v).toNat = k ↔ atLeast v t ∧ atMost v below' := by
  rw [hnext.atMost_below_iff, Nat.lt_succ_iff]
  constructor
  · intro hk
    obtain ⟨hv, hle⟩ := h.le_code_iff.1 hk.ge
    exact ⟨⟨hv, hle⟩, hv, hk.le⟩
  · rintro ⟨hat, -, hle⟩
    exact hle.antisymm (h.le_code_iff.2 hat)

/-- The last code has no upper end: QENC saturates (40_quantizer.md R71). -/
theorem ReachesCode.code_eq_last_iff (h : ReachesCode c k below t) (hwidth : supportedWidth (Config.range c).bits k) :
    (encodeChannel c v).toNat = k ↔ atLeast v t := by
  have hle : (encodeChannel c v).toNat ≤ k := qencWithinWidth v _ _ _ k (rangeContract_range c _) hwidth
  rw [← h.le_code_iff, hle.ge_iff_eq]

end

/-! ### The thresholds of R156 -/

theorem reachesCode_position_last :
    ReachesCode .position 65535 0x4028FFFFFFFFFFFE#64 0x4028FFFFFFFFFFFF#64 := by
  constructor <;> decide +kernel

theorem reachesCode_velocity_last :
    ReachesCode .velocity 4095 0x401FFFFFFFFFFFFE#64 0x401FFFFFFFFFFFFF#64 := by
  constructor <;> decide +kernel

theorem reachesCode_kp_last : ReachesCode .kp 4095 0x407F3FFFFFFFFFFF#64 0x407F400000000000#64 := by
  constructor <;> decide +kernel

theorem reachesCode_kd_last : ReachesCode .kd 4095 0x4013FFFFFFFFFFFF#64 0x4014000000000000#64 := by
  constructor <;> decide +kernel

theorem reachesCode_torque_enter : ReachesCode .torque 0xFFC 0x4061F93F93F93F92#64 0x4061F93F93F93F93#64 := by
  constructor <;> decide +kernel

theorem reachesCode_torque_exit : ReachesCode .torque 0xFFD 0x4061FB7FB7FB7FB6#64 0x4061FB7FB7FB7FB7#64 := by
  constructor <;> decide +kernel

theorem reachesCode_torque_zero : ReachesCode .torque 0xFFE 0x4061FDBFDBFDBFDA#64 0x4061FDBFDBFDBFDB#64 := by
  constructor <;> decide +kernel

theorem reachesCode_torque_last : ReachesCode .torque 0xFFF 0x4061FFFFFFFFFFFE#64 0x4061FFFFFFFFFFFF#64 := by
  constructor <;> decide +kernel

/-! ### The setpoints whose command frame is a control frame -/

theorem encodeField_eq_iff {c : Channel} (hbits : (Config.range c).bits = 12#5) (v : F64) (x : BitVec 12) :
    encodeField c v = x ↔ (encodeChannel c v).toNat = x.toNat := by
  rw [← BitVec.toNat_inj, toNat_encodeField hbits]

/-- The condition on the setpoints other than torque: each has its last code (70_reset_and_hazards.md R156). -/
def TopButTorque (sp : Setpoints) : Prop :=
  atLeast sp.position 0x4028FFFFFFFFFFFF#64 ∧ atLeast sp.velocity 0x401FFFFFFFFFFFFF#64 ∧
    atLeast sp.kp 0x407F400000000000#64 ∧ atLeast sp.kd 0x4014000000000000#64

/-- For `c = 3` the pattern is `FF..FF`, which is no control frame but has the same form. -/
theorem commandFrame_eq_modeFrame_iff (sp : Setpoints) (c : BitVec 2) :
    commandFrame sp = modeFrame c ↔
      TopButTorque sp ∧ (encodeChannel .torque sp.torque).toNat = 0xFFC + c.toNat := by
  have hposition : encodeChannel .position sp.position = 0xFFFF#16 ↔ atLeast sp.position 0x4028FFFFFFFFFFFF#64 := by
    rw [← BitVec.toNat_inj]
    exact reachesCode_position_last.code_eq_last_iff (.inr ⟨rfl, rfl⟩)
  have hvelocity := reachesCode_velocity_last.code_eq_last_iff (v := sp.velocity) (.inl ⟨rfl, rfl⟩)
  have hkp := reachesCode_kp_last.code_eq_last_iff (v := sp.kp) (.inl ⟨rfl, rfl⟩)
  have hkd := reachesCode_kd_last.code_eq_last_iff (v := sp.kd) (.inl ⟨rfl, rfl⟩)
  rw [commandFrame, packFrame, modeFrame_eq_packRaws, packRaws_inj, hposition, encodeField_eq_iff rfl,
    encodeField_eq_iff rfl, encodeField_eq_iff rfl, encodeField_eq_iff rfl, toNat_controlTorque]
  simp [hvelocity, hkp, hkd, TopButTorque, and_assoc]

/-- Settles O36: the torque codes 0xFFC to 0xFFF are reached one after the other, and the last has no upper end. -/
theorem commandFrameAliasSet : Obligations.CommandFrameAliasSet := fun sp =>
  ⟨(commandFrame_eq_modeFrame_iff sp 0#2).trans
      (and_congr_right' (reachesCode_torque_enter.code_eq_iff reachesCode_torque_exit)),
    (commandFrame_eq_modeFrame_iff sp 1#2).trans
      (and_congr_right' (reachesCode_torque_exit.code_eq_iff reachesCode_torque_zero)),
    (commandFrame_eq_modeFrame_iff sp 2#2).trans
      (and_congr_right' (reachesCode_torque_zero.code_eq_iff reachesCode_torque_last)),
    (commandFrame_eq_modeFrame_iff sp 3#2).trans
      (and_congr_right' (reachesCode_torque_last.code_eq_last_iff (.inl ⟨rfl, rfl⟩)))⟩

end Sys2Proof.Machine
end

section
/-! PROOFS. What a step is refused for (93_implementation_defined.md U2, U6, U7): the block has no fault
(60_exceptions.md R125), so the refused steps are those that do not complete, and what completes is known action by
action. -/

namespace Sys2Proof.Machine

/-- Without a fault an outcome is a next state or a refusal (60_exceptions.md R125). -/
theorem exists_refused_iff_not_next (o : Host.Outcome State Fault Refusal) :
    (∃ r, o = .refused r) ↔ ¬ ∃ t, o = .next t := by
  cases o with
  | next t => simp
  | fault r => nomatch r
  | refused r => simp

theorem step_refused_iff_not_completes (s : State) : (∃ r, step s = .refused r) ↔ ¬ ∃ t, step s = .next t :=
  exists_refused_iff_not_next (step s)

/-- Nothing presented, `rst`, or no request leaves nothing to refuse. -/
theorem exists_presents_of_step_refused {s : State} {r : Refusal} (h : step s = .refused r) :
    ∃ st, presents s st := by
  have hstuck := (step_refused_iff_not_completes s).1 ⟨r, h⟩
  rw [stepCompletesExactly s] at hstuck
  cases hcurrent : s.env.current with
  | none => exact absurd (.inl hcurrent) hstuck
  | some st =>
    obtain hpresents | hquiet := presents_or_no_request hcurrent
    · exact ⟨st, hpresents⟩
    · exact absurd (.inr (.inl hquiet)) hstuck

/-- An operation that is presented is refused for what it decodes to: for the contract, or as no operation at all. -/
theorem step_refused_iff_of_presents {s : State} {st : Stimulus} (h : presents s st) :
    (∃ r, step s = .refused r) ↔
      (∃ i, decode st = .instr i ∧ WellFormed i = false) ∨ (∃ c, decode st = .reservedRequest c) ∨
        ∃ w, decode st = .notControlFrame w := by
  rw [step_refused_iff_not_completes, step_completes_iff, action_of_presents h]
  cases decode st with
  | instr | reservedRequest | notControlFrame => simp [Action.ofDecoded]

/-- Settles O13: a refused step has an operation presented, and what that decodes to is the ground. -/
theorem refusesOnlyWhatTheSpecLeavesOut : Obligations.RefusesOnlyWhatTheSpecLeavesOut := by
  intro s
  constructor
  · rintro ⟨r, hrefused⟩
    obtain ⟨st, hpresents⟩ := exists_presents_of_step_refused hrefused
    exact ⟨st, hpresents, (step_refused_iff_of_presents hpresents).1 ⟨r, hrefused⟩⟩
  · rintro ⟨st, hpresents, hground⟩
    exact (step_refused_iff_of_presents hpresents).2 hground

end Sys2Proof.Machine
end
